-- ==== Sys2Proof/Word.lean ====
section
/-! DEFINITION. The words of the block: fields read from the stream are unsigned bit vectors of the widths the formats
give them (spec 00_scope.md R5, R8); positions and bit counts are natural numbers (R5: POSW is unbounded in a model with
unbounded MAXBITS). -/

namespace Sys2Proof

/-- A packet's version (VERW = 3, 00_scope.md R5). -/
abbrev Version := BitVec 3

/-- A packet's type id (TIDW = 3, 00_scope.md R5). -/
abbrev TypeId := BitVec 3

/-- `total_length` of an OP0 packet, in bits (TLENW = 15, 00_scope.md R5). -/
abbrev TotalLength := BitVec 15

/-- `packet_count` of an OP1 packet (PCNTW = 11, 00_scope.md R5). -/
abbrev PacketCount := BitVec 11

/-- The payload of a literal group (the low four bits of GRPW = 5, 00_scope.md R5). -/
abbrev Nibble := BitVec 4

/-- A literal's value, the literal accumulator, and the VALUE register (VALW = EVALW = 64, 00_scope.md R5). -/
abbrev Value := BitVec 64

/-- One byte of the store the bit buffer is packed into (20_memory.md R43). -/
abbrev Byte := BitVec 8

/-- The ARG field of a cursor command word (30_encoding.md R75). -/
abbrev CommandArg := BitVec 15

/-- A cursor command word (30_encoding.md R75). -/
abbrev CommandWord := BitVec 17

/-- A value the host writes to CTRL (10_state.md R32): bit 0 START, bit 1 SRESET. -/
abbrev Control := BitVec 2

end Sys2Proof
end

