-- ==== Sys2Proof/Config.lean ====
section
/-! DEFINITION. What the spec leaves to the model as an argument (00_scope.md R5), the fixed constants of the block, and
the one source of free values. -/

namespace Sys2Proof

/-- The parameters the spec leaves OPEN (00_scope.md R5, 92_eei_decisions.md "Parameters left open"): arguments of the
model, fixed for one machine. They stand in `State.params`, which no step writes, so that every statement over all states
is a statement for every value of them (log 4). -/
structure Params where
  /-- MAXBITS, the longest buffer LOAD accepts; `none` is unbounded (decision D4). -/
  maxBits : Option Nat
  /-- MAXDEPTH, the capacity of the frame stack; `none` is unbounded (decision D13). -/
  maxDepth : Option Nat
  /-- EXH_SLACK: `is_exhausted` is true when at most this many bits remain (decision D9). -/
  exhSlack : Nat
deriving DecidableEq, Repr

namespace Config

/-- The defaults the spec gives: MAXBITS unbounded (D4), MAXDEPTH unbounded (D13), EXH_SLACK = 1 (D9). -/
def defaults : Params := { maxBits := none, maxDepth := none, exhSlack := 1 }

/-- Free values (log 3): the k-th value the spec leaves unspecified and the machine goes on with. It has no body that
anything can use: no statement can rest on what it is. -/
opaque freeValue : Nat → BitVec 64

end Config

end Sys2Proof
end

