-- ==== Sys2Proof/Syntax.lean ====
section
/-! DEFINITION. The instructions: one constructor per row of spec/opcode_table.json, and the four code spaces their
encodings live in. -/

namespace Sys2Proof

/-- The seven operator kinds (30_encoding.md R66). -/
inductive Kind where
  | sum | product | min | max | greaterThan | lessThan | equalTo
deriving DecidableEq, Repr

/-- The instructions of the block (00_scope.md "How to read this spec as a machine": an instruction is a packet form or a
literal group; micro-operations are the four cursor operations; the host has two commands). Bits the spec calls ignored
are operands too, so that no bit of an encoding is dropped. -/
inductive Instr where
  /-- LIT `vvv100`: the header of a literal (30_encoding.md R62). Its groups are instructions of their own. -/
  | lit (ver : Version)
  /-- SUM.L0 `vvv0000`, total_length (30_encoding.md R64, R66). -/
  | sumL0 (ver : Version) (len : TotalLength)
  /-- SUM.L1 `vvv0001`, packet_count (30_encoding.md R65, R66). -/
  | sumL1 (ver : Version) (cnt : PacketCount)
  /-- PROD.L0 `vvv0010`. -/
  | prodL0 (ver : Version) (len : TotalLength)
  /-- PROD.L1 `vvv0011`. -/
  | prodL1 (ver : Version) (cnt : PacketCount)
  /-- MIN.L0 `vvv0100`. -/
  | minL0 (ver : Version) (len : TotalLength)
  /-- MIN.L1 `vvv0101`. -/
  | minL1 (ver : Version) (cnt : PacketCount)
  /-- MAX.L0 `vvv0110`. -/
  | maxL0 (ver : Version) (len : TotalLength)
  /-- MAX.L1 `vvv0111`. -/
  | maxL1 (ver : Version) (cnt : PacketCount)
  /-- GT.L0 `vvv1010`. -/
  | gtL0 (ver : Version) (len : TotalLength)
  /-- GT.L1 `vvv1011`. -/
  | gtL1 (ver : Version) (cnt : PacketCount)
  /-- LT.L0 `vvv1100`. -/
  | ltL0 (ver : Version) (len : TotalLength)
  /-- LT.L1 `vvv1101`. -/
  | ltL1 (ver : Version) (cnt : PacketCount)
  /-- EQ.L0 `vvv1110`. -/
  | eqL0 (ver : Version) (len : TotalLength)
  /-- EQ.L1 `vvv1111`. -/
  | eqL1 (ver : Version) (cnt : PacketCount)
  /-- GRP.C `1dddd`: a literal group that another group follows (30_encoding.md R63). -/
  | grpC (d : Nibble)
  /-- GRP.F `0dddd`: the last group of a literal (30_encoding.md R63). -/
  | grpF (d : Nibble)
  /-- RDB n, `00` + ARG: `read_bits(n)` (30_encoding.md R75, 40_bitcursor.md R81). -/
  | rdb (n : CommandArg)
  /-- EXH, `01` + ARG ignored: `is_exhausted()` (30_encoding.md R75, 40_bitcursor.md R82). -/
  | exh (ignored : CommandArg)
  /-- SUBV c, `10` + ARG: `sub_view(c)` (30_encoding.md R75, 40_bitcursor.md R83). -/
  | subv (count : CommandArg)
  /-- SKIP c, `11` + ARG: `skip(c)` (30_encoding.md R75, 40_bitcursor.md R84). -/
  | skip (count : CommandArg)
  /-- START, a CTRL write of `01` (30_encoding.md R76). -/
  | start
  /-- SRESET, a CTRL write of `1x` (30_encoding.md R76); the START bit beside it is ignored (10_state.md R32). -/
  | sreset (startBit : Bool)
deriving DecidableEq, Repr

/-- A word of code in one of the four code spaces of the spec. Which of them a bit string belongs to is fixed by where it
stands: a packet header and a literal group in the stream (in PHASE HDR and LIT, 41_packet_decoder.md R121, R123), a
command word at the BitCursor (30_encoding.md R75), a control value in CTRL (30_encoding.md R76). -/
inductive Code where
  /-- Stream bits from the first bit of a packet, in stream order. -/
  | header (bits : List Bool)
  /-- Stream bits from the first bit of a literal group, in stream order. -/
  | group (bits : List Bool)
  /-- A cursor command word. -/
  | command (w : CommandWord)
  /-- A value written to CTRL. -/
  | control (v : Control)
deriving DecidableEq, Repr

/-- Why the decoder gives no instruction. -/
inductive DecodeRefusal where
  /-- The stream bits end before the form's last field does. -/
  | truncated
  /-- A CTRL write of `00`: "writing 0 does nothing" (10_state.md R32). -/
  | noCommand
deriving DecidableEq, Repr

end Sys2Proof
end

