-- ==== Sys2Proof/Machine/State.lean ====
section
/-! DEFINITION. The state of the block as plain data, its parts, the ways a step stops, and reset. -/

namespace Sys2Proof.Machine

open Sys2Proof

/-- A cursor: the triple (BASE, LEN, POS) over the bit buffer (10_state.md R12, decision D3). -/
structure Cursor where
  /-- absolute bit index of the first bit of the range -/
  base : Nat
  /-- number of bits in the range -/
  len : Nat
  /-- number of bits of the range already consumed -/
  pos : Nat
deriving DecidableEq, Repr

mutual

/-- A packet of the decoded tree (10_state.md R24 to R26): a tagged value with exactly one of two shapes. -/
inductive Packet where
  /-- `Literal { version, value }` (10_state.md R24). -/
  | literal (version : Version) (value : Value)
  /-- `Operator { version, kind, children }` (10_state.md R25); the children are in stream order, the list may be empty. -/
  | operator (version : Version) (kind : Kind) (children : Packets)
deriving DecidableEq, Repr

/-- The ordered list of an operator's children. -/
inductive Packets where
  | nil
  | cons (first : Packet) (rest : Packets)
deriving DecidableEq, Repr

end

/-- An operator's framing as its frame holds it (10_state.md R20): MODE is the constructor, and each mode has the fields
it uses (log 16). -/
inductive FrameMode where
  /-- MODE 0: TOTAL, and PARENT, the parent cursor as it stood after the length was read. -/
  | l0 (total : TotalLength) (parent : Cursor)
  /-- MODE 1: CNT, the number of children still to be decoded. -/
  | l1 (cnt : PacketCount)
deriving DecidableEq, Repr

/-- A frame: an operator packet whose children are being decoded (10_state.md R20). KIND is stored as its type id
(decision D25), which `Kind.typeId` gives. -/
structure Frame where
  ver : Version
  kind : Kind
  mode : FrameMode
  /-- the children decoded so far, in stream order -/
  children : List Packet
deriving DecidableEq, Repr

/-- PHASE (10_state.md R21). -/
inductive Phase where
  | idle | hdr | oph | lit | next | done | fault
deriving DecidableEq, Repr

/-- The decode fault kinds (60_exceptions.md R160, class "decode fault"). -/
inductive DecodeFault where
  | unexpectedEnd | lengthMismatch | literalOverflow | depthExceeded
deriving DecidableEq, Repr

/-- The evaluation errors (60_exceptions.md R160, class "evaluation error"). -/
inductive EvalFault where
  | evalMalformed | evalOverflow
deriving DecidableEq, Repr

/-- The host-visible registers (10_state.md R33). -/
inductive HostReg where
  | status | err | epos | endpos | buflen | vsum | value | ctrl | tree
deriving DecidableEq, Repr

/-- What a read of a host register returns (70_reset_and_hazards.md R199). -/
inductive ReadData where
  /-- the register holds no value: no number is returned -/
  | noValue
  | word (n : Nat)
  /-- TREE, an abstract value or `none` (10_state.md R27) -/
  | tree (t : Option Packet)
deriving DecidableEq, Repr

/-- What arrives from outside the sequencer, one entry a step (70_reset_and_hazards.md R199; log 5). -/
inductive Input where
  /-- the host does nothing in this slot: the sequencer moves -/
  | pause
  /-- the external reset RESET (70_reset_and_hazards.md R190) -/
  | reset
  /-- LOAD(bits, len), `len` the number of bits (20_memory.md R51) -/
  | load (bits : List Bool)
  /-- a write to CTRL (10_state.md R32) -/
  | control (v : Control)
  /-- a write to a register the host may not write -/
  | writeReadOnly (r : HostReg)
  /-- a read of a register -/
  | read (r : HostReg)
  /-- a cursor command word at the BitCursor's port, which acts only outside a run (30_encoding.md R75; log 8) -/
  | command (w : CommandWord)
deriving DecidableEq, Repr

/-- The response of the BitCursor to a command word (30_encoding.md R75). -/
inductive Response where
  /-- RDB, ok: the 16-bit RDATA -/
  | data (v : BitVec 16)
  /-- EXH: one bit -/
  | exhausted (b : Bool)
  /-- SUBV, ok: a cursor triple -/
  | view (c : Cursor)
  /-- SKIP, ok -/
  | skipped
  /-- the fail bit of RDB, SUBV and SKIP -/
  | failed
deriving DecidableEq, Repr

/-- Everything the spec gives the machine (spec/10_state.md), and the model's own fields `params`, `inputs`, `response`,
`readData` and `free`. -/
structure State where
  /-- the OPEN parameters (00_scope.md R5); no step writes them -/
  params : Params
  /-- BUF, packed into bytes (10_state.md R10, 20_memory.md R43), in canonical form -/
  mem : List Host.Cell
  /-- BUFLEN (10_state.md R11) -/
  buflen : Nat
  /-- CUR (10_state.md R12) -/
  cur : Cursor
  /-- RDATA (10_state.md R17) -/
  rdata : BitVec 16
  /-- VER (10_state.md R17) -/
  ver : Version
  /-- TID (10_state.md R17) -/
  tid : TypeId
  /-- LTID (10_state.md R17) -/
  ltid : BitVec 1
  /-- TLEN (10_state.md R17) -/
  tlen : TotalLength
  /-- PCNT (10_state.md R17) -/
  pcnt : PacketCount
  /-- GRP (10_state.md R17) -/
  grp : BitVec 5
  /-- ACC (10_state.md R17, R18) -/
  acc : Value
  /-- STK, the top frame first; SP is its length (10_state.md R19) -/
  stk : List Frame
  /-- PHASE (10_state.md R21) -/
  phase : Phase
  /-- TREE (10_state.md R27) -/
  tree : Option Packet
  /-- DERR (10_state.md R29); `none` is code 0 -/
  derr : Option DecodeFault
  /-- EVERR (10_state.md R29); `none` is code 0 -/
  everr : Option EvalFault
  /-- EPOS (10_state.md R30) -/
  epos : Nat
  /-- ENDPOS (10_state.md R30) -/
  endpos : Nat
  /-- VSUM (10_state.md R31); `none` is "holds no value" -/
  vsum : Option Nat
  /-- VALUE (10_state.md R31); `none` is "holds no value" -/
  value : Option Value
  /-- the model's own: what arrives from outside, in order (log 5) -/
  inputs : List Input
  /-- the model's own: the last response of the BitCursor to a command word (log 8) -/
  response : Option Response
  /-- the model's own: what the host's last read returned (log 21) -/
  readData : ReadData
  /-- the model's own: the number of free values drawn so far (log 3) -/
  free : Nat
deriving DecidableEq, Repr

/-- Where the machine stops with a fault. No sequencer step of a run raises either (log 11); a command word RDB outside a
run can raise the first (log 23). -/
inductive Fault where
  /-- Raised by a read of the bit buffer at or above BUFLEN, outside the domain of MemRead (00_scope.md R8,
  20_memory.md R46): by a command word RDB outside a run, on a CUR that a later, shorter LOAD has left behind the end of
the buffer. The spec gives no such command (D24); that it faults is the model's choice (log 23). Safe: the model stops
where the spec gives no bit. -/
  | outsideBuffer
  /-- Raised by a NEXT step with SP = 0, against its precondition (41_packet_decoder.md R124). Safe: the spec gives such
  a step no meaning. -/
  | emptyStack
deriving DecidableEq, Repr

/-- Where the model gives an instruction no meaning. -/
inductive Refusal where
  /-- Raised by an arm of exec whose instruction has no meaning yet. Safe. -/
  | notModelled (mnemonic : String)
  /-- Raised by RDB with n outside 1..16: "refuses it (gives it no meaning)" (40_bitcursor.md R85). Safe. -/
  | readWidth
  /-- Raised by a packet form or a group in a state in which the sequencer is not at that instruction: "exactly one step
  is enabled" (41_packet_decoder.md R119). Safe: `step` never asks for it on a state a run reaches (log 10). -/
  | notEnabled
deriving DecidableEq, Repr

/-- What a step answers. -/
abbrev Result := Host.Outcome State Fault Refusal

/-- The state after reset (10_state.md R35, 70_reset_and_hazards.md R191). The working registers, which the spec leaves
unspecified, are 0 (log 2); nothing is listed in the buffer (log 1); the parameters have the spec's defaults (log 4); the
model's own fields are empty (log 17). -/
def State.reset : State where
  params := Config.defaults
  mem := []
  buflen := 0
  cur := { base := 0, len := 0, pos := 0 }
  rdata := 0
  ver := 0
  tid := 0
  ltid := 0
  tlen := 0
  pcnt := 0
  grp := 0
  acc := 0
  stk := []
  phase := .idle
  tree := none
  derr := none
  everr := none
  epos := 0
  endpos := 0
  vsum := none
  value := none
  inputs := []
  response := none
  readData := .noValue
  free := 0

end Sys2Proof.Machine
end

