-- ==== Sys2Proof/Machine/Evaluator.lean ====
section
/-! DEFINITION. The Evaluator: the two folds over the packet tree (spec/42_evaluator.md), and the well-formedness of a
tree (41_packet_decoder.md R116). -/

namespace Sys2Proof.Machine

open Sys2Proof

/-- The children as a list, first decoded first. -/
def Packets.toList : Packets → List Packet
  | .nil => []
  | .cons p ps => p :: ps.toList

/-- The children of a completed operator, from the list its frame collected. -/
def Packets.ofList : List Packet → Packets
  | [] => .nil
  | p :: ps => .cons p (Packets.ofList ps)

/-- The number of children. -/
def Packets.length : Packets → Nat
  | .nil => 0
  | .cons _ ps => ps.length + 1

/-! ## count_versions (42_evaluator.md R140, R141) -/

mutual

/-- `count_versions` of a packet: the version, plus that of every child for an operator. -/
def Packet.countVersions : Packet → Nat
  | .literal ver _ => ver.toNat
  | .operator ver _ children => ver.toNat + children.countVersions

/-- The sum of `count_versions` over a list of children. -/
def Packets.countVersions : Packets → Nat
  | .nil => 0
  | .cons p ps => p.countVersions + ps.countVersions

end

mutual

/-- The number of packets in a tree. -/
def Packet.size : Packet → Nat
  | .literal _ _ => 1
  | .operator _ _ children => children.size + 1

/-- The number of packets in a list of trees. -/
def Packets.size : Packets → Nat
  | .nil => 0
  | .cons p ps => p.size + ps.size

end

/-! ## evaluate (42_evaluator.md R143 to R153) -/

/-- The bound of the 64-bit value datapath (42_evaluator.md R153). -/
def evalBound : Nat := 2 ^ 64

/-- What `evaluate` answers: `ok(v)` or `err(k)` (42_evaluator.md R144). -/
inductive EvalResult where
  | ok (v : Nat)
  | err (k : EvalFault)
deriving DecidableEq, Repr

/-- What evaluating all children of an operator answers. -/
inductive EvalList where
  | ok (vs : List Nat)
  | err (k : EvalFault)
deriving DecidableEq, Repr

/-- The loop of SUM (42_evaluator.md R145): the test is inside the loop, on exact arithmetic. -/
def sumFrom (acc : Nat) : List Nat → EvalResult
  | [] => .ok acc
  | v :: vs => if evalBound ≤ acc + v then .err .evalOverflow else sumFrom (acc + v) vs

/-- The loop of PROD (42_evaluator.md R146): the test is after every multiplication. -/
def productFrom (acc : Nat) : List Nat → EvalResult
  | [] => .ok acc
  | v :: vs => if evalBound ≤ acc * v then .err .evalOverflow else productFrom (acc * v) vs

/-- The loop of MIN (42_evaluator.md R147). -/
def minFrom (acc : Nat) : List Nat → Nat
  | [] => acc
  | v :: vs => minFrom (if v < acc then v else acc) vs

/-- The loop of MAX (42_evaluator.md R148). -/
def maxFrom (acc : Nat) : List Nat → Nat
  | [] => acc
  | v :: vs => maxFrom (if acc < v then v else acc) vs

/-- The value of a comparison: 1 or 0 (42_evaluator.md R149 to R151). -/
def truth (b : Bool) : Nat := if b then 1 else 0

/-- The comparison kinds, which take exactly two children (41_packet_decoder.md R116). -/
def isComparison : Kind → Bool
  | .sum | .product | .min | .max => false
  | .greaterThan | .lessThan | .equalTo => true

/-- The arity a kind's children must have (41_packet_decoder.md R116). -/
def arityOk (k : Kind) (n : Nat) : Bool :=
  if isComparison k then decide (n = 2) else decide (1 ≤ n)

/-- A comparison of two values; any other number of children is EvalMalformed (42_evaluator.md R149 to R152). -/
def compareTwo (test : Nat → Nat → Bool) : List Nat → EvalResult
  | [a, b] => .ok (truth (test a b))
  | _ => .err .evalMalformed

/-- `combine(kind, vs)` behind the two checks of 42_evaluator.md R144 and R152: no children, and a comparison of other
than two, are EvalMalformed. -/
def combine (k : Kind) : List Nat → EvalResult
  | [] => .err .evalMalformed
  | v :: vs =>
    match k with
    | .sum => sumFrom v vs
    | .product => productFrom v vs
    | .min => .ok (minFrom v vs)
    | .max => .ok (maxFrom v vs)
    | .greaterThan => compareTwo (fun a b => decide (b < a)) (v :: vs)
    | .lessThan => compareTwo (fun a b => decide (a < b)) (v :: vs)
    | .equalTo => compareTwo (fun a b => decide (a = b)) (v :: vs)

mutual

/-- `evaluate` of a packet (42_evaluator.md R143, R144): all children first. -/
def Packet.evaluate : Packet → EvalResult
  | .literal _ v => .ok v.toNat
  | .operator _ k children =>
    match children.evaluate with
    | .err e => .err e
    | .ok vs => combine k vs

/-- The children left to right; the leftmost failing child decides (42_evaluator.md R144). -/
def Packets.evaluate : Packets → EvalList
  | .nil => .ok []
  | .cons p ps =>
    match p.evaluate with
    | .err e => .err e
    | .ok v =>
      match ps.evaluate with
      | .err e => .err e
      | .ok vs => .ok (v :: vs)

end

/-! ## Well-formed trees (41_packet_decoder.md R116) -/

mutual

/-- `WellFormed(p)`: children not empty, exactly two under a comparison, every child well-formed. -/
def Packet.wellFormed : Packet → Bool
  | .literal _ _ => true
  | .operator _ k children => arityOk k children.length && children.wellFormed

/-- Every packet of a list is well-formed. -/
def Packets.wellFormed : Packets → Bool
  | .nil => true
  | .cons p ps => p.wellFormed && ps.wellFormed

end

end Sys2Proof.Machine
end

