-- ==== Sys2Proof/WellFormed.lean ====
section
/-! DEFINITION. Well-formed instructions: the one operand restriction the spec states is the domain of `read_bits`. -/

namespace Sys2Proof

/-- RDB's ARG "is n and must be 1..16; any other value is refused" (30_encoding.md R75, 40_bitcursor.md R85). Every other
operand value of every form is legal (30_encoding.md R71, R75). -/
def Instr.wellFormed : Instr → Bool
  | .lit _ => true
  | .sumL0 _ _ | .sumL1 _ _ => true
  | .prodL0 _ _ | .prodL1 _ _ => true
  | .minL0 _ _ | .minL1 _ _ => true
  | .maxL0 _ _ | .maxL1 _ _ => true
  | .gtL0 _ _ | .gtL1 _ _ => true
  | .ltL0 _ _ | .ltL1 _ _ => true
  | .eqL0 _ _ | .eqL1 _ _ => true
  | .grpC _ | .grpF _ => true
  | .rdb n => decide (1 ≤ n.toNat) && decide (n.toNat ≤ 16)
  | .exh _ => true
  | .subv _ => true
  | .skip _ => true
  | .start => true
  | .sreset _ => true

end Sys2Proof
end

