-- ==== Sys2Proof/Decode.lean ====
section
/-! DEFINITION. The decoder, total on any bits and rejecting by name, and the encoder, both from the formats of
spec/30_encoding.md. -/

namespace Sys2Proof

/-! ## Bit strings (00_scope.md R8, 20_memory.md R41): stream order, first bit most significant -/

/-- The unsigned value of a bit string whose first bit is the most significant one. -/
def bitsToNat : List Bool → Nat
  | [] => 0
  | b :: bs => b.toNat * 2 ^ bs.length + bitsToNat bs

/-- The `n` bits of a value, most significant first. -/
def natToBits : Nat → Nat → List Bool
  | 0, _ => []
  | n + 1, v => v.testBit n :: natToBits n v

/-- The bits of a field in stream order. -/
def fieldBits {n : Nat} (v : BitVec n) : List Bool := natToBits n v.toNat

/-- The next field of `n` bits and what follows it: every field is an unsigned integer, most significant bit first
(30_encoding.md R68). `none` when fewer than `n` bits are left. -/
def takeField (n : Nat) (bits : List Bool) : Option (BitVec n × List Bool) :=
  if n ≤ bits.length then some (BitVec.ofNat n (bitsToNat (bits.take n)), bits.drop n) else none

/-! ## The kind map (30_encoding.md R66) -/

/-- LIT_TID, the type id of a literal (00_scope.md R5). -/
def literalTypeId : TypeId := 4

/-- `0→Sum, 1→Product, 2→Min, 3→Max, 5→GreaterThan, 6→LessThan, 7→EqualTo` (30_encoding.md R66), read from right to
left. -/
def Kind.typeId : Kind → TypeId
  | .sum => 0
  | .product => 1
  | .min => 2
  | .max => 3
  | .greaterThan => 5
  | .lessThan => 6
  | .equalTo => 7

/-- The kind map as `KIND` (41_packet_decoder.md R104); `none` is type id 4, the literal, to which it is not applied. -/
def kindOf (t : TypeId) : Option Kind :=
  match t.toNat with
  | 0 => some .sum
  | 1 => some .product
  | 2 => some .min
  | 3 => some .max
  | 5 => some .greaterThan
  | 6 => some .lessThan
  | 7 => some .equalTo
  | _ => none

/-- The OP0 form of a kind (30_encoding.md R64, R66). -/
def Instr.ofL0 : Kind → Version → TotalLength → Instr
  | .sum => .sumL0
  | .product => .prodL0
  | .min => .minL0
  | .max => .maxL0
  | .greaterThan => .gtL0
  | .lessThan => .ltL0
  | .equalTo => .eqL0

/-- The OP1 form of a kind (30_encoding.md R65, R66). -/
def Instr.ofL1 : Kind → Version → PacketCount → Instr
  | .sum => .sumL1
  | .product => .prodL1
  | .min => .minL1
  | .max => .maxL1
  | .greaterThan => .gtL1
  | .lessThan => .ltL1
  | .equalTo => .eqL1

/-! ## Decoding -/

/-- What decoding stream bits gives: an instruction and the bits after it, or a refusal by name. -/
abbrev Decoded := Except DecodeRefusal (Instr × List Bool)

/-- An operator's length-type id and length field (30_encoding.md R64, R65, R67). -/
def decodeOperator (ver : Version) (k : Kind) (bits : List Bool) : Decoded :=
  match bits with
  | [] => .error .truncated
  | false :: rest =>
    match takeField 15 rest with
    | none => .error .truncated
    | some (len, rest) => .ok (Instr.ofL0 k ver len, rest)
  | true :: rest =>
    match takeField 11 rest with
    | none => .error .truncated
    | some (cnt, rest) => .ok (Instr.ofL1 k ver cnt, rest)

/-- The packet form that starts at the first bit (30_encoding.md R61 to R66): LIT is tested on six bits before the
seventh is read as the length-type id. -/
def decodeHeader (bits : List Bool) : Decoded :=
  match takeField 3 bits with
  | none => .error .truncated
  | some (ver, bits) =>
    match takeField 3 bits with
    | none => .error .truncated
    | some (tid, bits) =>
      match kindOf tid with
      | none => .ok (.lit ver, bits)
      | some k => decodeOperator ver k bits

/-- The literal group that starts at the first bit (30_encoding.md R63): `1dddd` or `0dddd`. -/
def decodeGroup (bits : List Bool) : Decoded :=
  match bits with
  | [] => .error .truncated
  | more :: bits =>
    match takeField 4 bits with
    | none => .error .truncated
    | some (d, rest) => .ok (if more then .grpC d else .grpF d, rest)

/-- A cursor command word (30_encoding.md R75): CMD[16:15] is the operation, CMD[14:0] is ARG. -/
def decodeCommand (w : CommandWord) : Instr :=
  let arg : CommandArg := w.extractLsb' 0 15
  if w.getLsbD 16 then
    if w.getLsbD 15 then .skip arg else .subv arg
  else
    if w.getLsbD 15 then .exh arg else .rdb arg

/-- A value written to CTRL (30_encoding.md R76, 10_state.md R32): SRESET wins over START. -/
def decodeControl (v : Control) : Except DecodeRefusal Instr :=
  if v.getLsbD 1 then .ok (.sreset (v.getLsbD 0))
  else if v.getLsbD 0 then .ok .start
  else .error .noCommand

/-- The decoder over all four code spaces. -/
def decode : Code → Except DecodeRefusal Instr
  | .header bits => (decodeHeader bits).map Prod.fst
  | .group bits => (decodeGroup bits).map Prod.fst
  | .command w => .ok (decodeCommand w)
  | .control v => decodeControl v

/-! ## Encoding -/

/-- Format OP0 (30_encoding.md R64): `vvvttt0` and the 15 bits of `total_length`. -/
def encodeL0 (k : Kind) (ver : Version) (len : TotalLength) : Code :=
  .header (fieldBits ver ++ fieldBits k.typeId ++ false :: fieldBits len)

/-- Format OP1 (30_encoding.md R65): `vvvttt1` and the 11 bits of `packet_count`. -/
def encodeL1 (k : Kind) (ver : Version) (cnt : PacketCount) : Code :=
  .header (fieldBits ver ++ fieldBits k.typeId ++ true :: fieldBits cnt)

/-- A cursor command word from its operation code and ARG (30_encoding.md R75). -/
def commandWord (op : BitVec 2) (arg : CommandArg) : CommandWord := op ++ arg

/-- The encoder, written from the formats of 30_encoding.md R62 to R66, R75, R76. -/
def encode : Instr → Code
  | .lit ver => .header (fieldBits ver ++ fieldBits literalTypeId)
  | .sumL0 ver len => encodeL0 .sum ver len
  | .sumL1 ver cnt => encodeL1 .sum ver cnt
  | .prodL0 ver len => encodeL0 .product ver len
  | .prodL1 ver cnt => encodeL1 .product ver cnt
  | .minL0 ver len => encodeL0 .min ver len
  | .minL1 ver cnt => encodeL1 .min ver cnt
  | .maxL0 ver len => encodeL0 .max ver len
  | .maxL1 ver cnt => encodeL1 .max ver cnt
  | .gtL0 ver len => encodeL0 .greaterThan ver len
  | .gtL1 ver cnt => encodeL1 .greaterThan ver cnt
  | .ltL0 ver len => encodeL0 .lessThan ver len
  | .ltL1 ver cnt => encodeL1 .lessThan ver cnt
  | .eqL0 ver len => encodeL0 .equalTo ver len
  | .eqL1 ver cnt => encodeL1 .equalTo ver cnt
  | .grpC d => .group (true :: fieldBits d)
  | .grpF d => .group (false :: fieldBits d)
  | .rdb n => .command (commandWord 0 n)
  | .exh arg => .command (commandWord 1 arg)
  | .subv c => .command (commandWord 2 c)
  | .skip c => .command (commandWord 3 c)
  | .start => .control 1
  | .sreset b => .control (if b then 3 else 2)

/-! ## The table's words -/

/-- The code a word of spec/opcode_table.json stands for, when the row has `nbits` bits (log 12). The table gives four
code spaces one numbering, so the width says which: 17 (24 in whole bytes) a command word, 2 a control value, 5 a group,
6 and 7 a packet header's leading bits, first stream bit most significant (30_encoding.md R66), its operand field zeros.
Eight bits is a packet header of 7 leading bits, but for the values 16 to 31, in which the group form GRP.C lies and no
operator row of version 0 does. -/
def tableCode (nbits w : Nat) : Option Code :=
  match nbits with
  | 2 => some (.control (BitVec.ofNat 2 w))
  | 5 => some (.group (natToBits 5 w))
  | 6 => some (.header (natToBits 6 w ++ List.replicate 16 false))
  | 7 => some (.header (natToBits 7 w ++ List.replicate 15 false))
  | 8 => if 16 ≤ w ∧ w < 32 then some (.group (natToBits 5 w))
         else some (.header (natToBits 7 w ++ List.replicate 15 false))
  | 17 => some (.command (BitVec.ofNat 17 w))
  | 24 => some (.command (BitVec.ofNat 17 w))
  | _ => none

/-- The instruction the decoder reads from a word of the opcode table (log 12). -/
def decodeTableWord (nbits w : Nat) : Option Instr :=
  match tableCode nbits w with
  | none => none
  | some c =>
    match decode c with
    | .ok i => some i
    | .error _ => none

end Sys2Proof
end

