-- ==== Sys2Proof/Machine/Flags.lean ====
section
/-! DEFINITION. The one-bit conditions that steer the sequencer (10_state.md R14, R22), none of them state: the
continuation flag, the exhaustion flag, the literal overflow test, the stack-full test; and the views the host reads of
PHASE, DERR and EVERR. -/

namespace Sys2Proof.Machine

open Sys2Proof

/-- REM = LEN - POS (10_state.md R14). -/
def Cursor.rem (c : Cursor) : Nat := c.len - c.pos

/-- A = BASE + POS, the absolute bit address, the block's program counter (10_state.md R14, R16). -/
def Cursor.addr (c : Cursor) : Nat := c.base + c.pos

/-- `is_exhausted`: REM <= EXH_SLACK (40_bitcursor.md R82). -/
def Cursor.exhausted (slack : Nat) (c : Cursor) : Bool := decide (c.rem ≤ slack)

/-- The continuation flag GRP[4] (10_state.md R22, 30_encoding.md R63). -/
def continues (g : BitVec 5) : Bool := g.getLsbD 4

/-- The payload GRP[3:0] (10_state.md R17, 30_encoding.md R63). -/
def payload (g : BitVec 5) : Nibble := g.extractLsb' 0 4

/-- A group as it stands in GRP: the continuation flag and the payload (30_encoding.md R63). -/
def groupOf (more : Bool) (d : Nibble) : BitVec 5 := BitVec.ofBool more ++ d

/-- ACC[63:60] != 0: the next group would shift a set bit out (41_packet_decoder.md R103). -/
def accFull (acc : Value) : Bool := decide (acc.extractLsb' 60 4 ≠ 0)

/-- `(ACC << 4) | payload` (41_packet_decoder.md R102). -/
def accumulate (acc : Value) (d : Nibble) : Value := (acc <<< 4) ||| d.setWidth 64

/-- SP, the number of frames (10_state.md R19). -/
def State.sp (s : State) : Nat := s.stk.length

/-- SP = MAXDEPTH; never when MAXDEPTH is unbounded (41_packet_decoder.md R122). -/
def State.stackFull (s : State) : Bool :=
  match s.params.maxDepth with
  | none => false
  | some d => decide (s.sp = d)

/-- STATUS (10_state.md R28). -/
def Phase.status : Phase → BitVec 2
  | .idle => 0
  | .hdr | .oph | .lit | .next => 1
  | .done => 2
  | .fault => 3

/-- STATUS = BUSY. -/
def State.busy (s : State) : Bool := decide (s.phase.status = 1)

/-- The code of a decode fault (60_exceptions.md R160). -/
def DecodeFault.code : DecodeFault → BitVec 3
  | .unexpectedEnd => 1
  | .lengthMismatch => 2
  | .literalOverflow => 4
  | .depthExceeded => 5

/-- The code of an evaluation error (60_exceptions.md R160). -/
def EvalFault.code : EvalFault → BitVec 3
  | .evalMalformed => 6
  | .evalOverflow => 7

/-- ERR[2:0] (10_state.md R29). -/
def State.derrCode (s : State) : BitVec 3 :=
  match s.derr with
  | none => 0
  | some k => k.code

/-- ERR[6:4] (10_state.md R29). -/
def State.everrCode (s : State) : BitVec 3 :=
  match s.everr with
  | none => 0
  | some k => k.code

/-- ERR (10_state.md R29): bits 7 and 3 read 0. -/
def State.err (s : State) : BitVec 8 := 0#1 ++ s.everrCode ++ 0#1 ++ s.derrCode

end Sys2Proof.Machine
end

