-- ==== Sys2Proof/Machine/Ops.lean ====
section
/-! DEFINITION. The shared operations: the bit buffer, the BitCursor (spec/40_bitcursor.md), fault entry
(60_exceptions.md R171), the completion of a packet (41_packet_decoder.md R125), START and reset. -/

namespace Sys2Proof.Machine

open Sys2Proof

/-! ## The bit buffer (20_memory.md) -/

/-- What an unlisted byte of the buffer's store reads as (log 1). -/
def unlistedByte : Byte := 0

/-- One byte of the store. -/
def readByte : List Host.Cell → Nat → Byte
  | [], _ => unlistedByte
  | (a, b) :: m, x => if a = x then b else readByte m x

/-- A cell, or none where the byte is what an unlisted address reads as. -/
def cellOrNone (a : Nat) (b : Byte) : List Host.Cell := if b = unlistedByte then [] else [(a, b)]

/-- A byte written into the store, in canonical form. -/
def writeByte : List Host.Cell → Nat → Byte → List Host.Cell
  | [], x, v => cellOrNone x v
  | (a, b) :: m, x, v =>
    if x < a then cellOrNone x v ++ (a, b) :: m
    else if x = a then cellOrNone x v ++ m
    else (a, b) :: writeByte m x v

/-- The canonical form from an address on: strictly rising addresses, no cell equal to what an unlisted byte reads as. -/
def Memory.wfFrom : Nat → List Host.Cell → Bool
  | _, [] => true
  | lo, (a, b) :: m => decide (lo ≤ a) && decide (b ≠ unlistedByte) && Memory.wfFrom (a + 1) m

/-- The canonical form of the store. -/
def Memory.wf (m : List Host.Cell) : Bool := Memory.wfFrom 0 m

/-- Where bit address `i` stands in its byte: bit `7 - (i mod 8)` (20_memory.md R43). -/
def bitPlace (i : Nat) : Nat := 7 - i % 8

/-- `BUF[i]`: bit `7 - (i mod 8)` of byte `i / 8` (20_memory.md R43). -/
def readBit (m : List Host.Cell) (i : Nat) : Bool := (readByte m (i / 8)).getLsbD (bitPlace i)

/-- A byte with one bit set to a value. -/
def setBitOf (b : Byte) (k : Nat) (v : Bool) : Byte :=
  if v then b ||| BitVec.twoPow 8 k else b &&& ~~~(BitVec.twoPow 8 k)

/-- One bit written into the store. -/
def writeBit (m : List Host.Cell) (i : Nat) (v : Bool) : List Host.Cell :=
  writeByte m (i / 8) (setBitOf (readByte m (i / 8)) (bitPlace i) v)

/-- A bit string written from an address on. -/
def writeBits (m : List Host.Cell) : Nat → List Bool → List Host.Cell
  | _, [] => m
  | i, b :: bs => writeBits (writeBit m i b) (i + 1) bs

/-- A whole buffer: bit `i` of the string is `BUF[i]`. -/
def packBits (bits : List Bool) : List Host.Cell := writeBits [] 0 bits

/-- The big-endian value of `n` bits from address `a` on: `sum over i of BUF[a+i] * 2^(n-1-i)` (20_memory.md R41). -/
def readNat (m : List Host.Cell) (a : Nat) : Nat → Nat
  | 0 => 0
  | n + 1 => 2 * readNat m a n + (readBit m (a + n)).toNat

/-- `n` bits from address `a` on, in stream order. -/
def peek (m : List Host.Cell) (a : Nat) : Nat → List Bool
  | 0 => []
  | n + 1 => readBit m a :: peek m (a + 1) n

/-- `MemRead(addr, n)`, defined only for `1 <= n <= 16` and `addr + n <= BUFLEN` (00_scope.md R8, 20_memory.md R46). -/
def memRead (s : State) (a : Nat) (n : Nat) : Option Nat :=
  if 1 ≤ n ∧ n ≤ 16 ∧ a + n ≤ s.buflen then some (readNat s.mem a n) else none

/-! ## Cursors (40_bitcursor.md) -/

/-- NEWC: the root cursor (0, BUFLEN, 0) (40_bitcursor.md R80). -/
def rootCursor (buflen : Nat) : Cursor := { base := 0, len := buflen, pos := 0 }

/-- `sub_view(k)`: a cursor over the next `k` bits, `none` where it raises UnexpectedEnd (40_bitcursor.md R83). -/
def Cursor.subView (c : Cursor) (k : Nat) : Option Cursor :=
  if c.rem < k then none else some { base := c.addr, len := k, pos := 0 }

/-- `skip(k)`: the cursor `k` bits further, `none` where it raises UnexpectedEnd (40_bitcursor.md R84). -/
def Cursor.skip (c : Cursor) (k : Nat) : Option Cursor :=
  if c.rem < k then none else some { c with pos := c.pos + k }

/-- The two registers a successful `read_bits(n)` writes: POS and RDATA (40_bitcursor.md R81). -/
def advance (n : Nat) (v : BitVec 16) (s : State) : State :=
  { s with cur := { s.cur with pos := s.cur.pos + n }, rdata := v }

/-! ## One register written -/

/-- CUR written. -/
def setCur (c : Cursor) (s : State) : State := { s with cur := c }

/-- VER written. -/
def setVer (v : Version) (s : State) : State := { s with ver := v }

/-- TID written. -/
def setTid (v : TypeId) (s : State) : State := { s with tid := v }

/-- LTID written. -/
def setLtid (v : BitVec 1) (s : State) : State := { s with ltid := v }

/-- TLEN written. -/
def setTlen (v : TotalLength) (s : State) : State := { s with tlen := v }

/-- PCNT written. -/
def setPcnt (v : PacketCount) (s : State) : State := { s with pcnt := v }

/-- GRP written. -/
def setGrp (v : BitVec 5) (s : State) : State := { s with grp := v }

/-- ACC written. -/
def setAcc (v : Value) (s : State) : State := { s with acc := v }

/-- STK written. -/
def setStk (v : List Frame) (s : State) : State := { s with stk := v }

/-- PHASE written. -/
def setPhase (v : Phase) (s : State) : State := { s with phase := v }

/-- The BitCursor's response (30_encoding.md R75; log 8). -/
def setResponse (v : Response) (s : State) : State := { s with response := some v }

/-! ## Fault entry (60_exceptions.md R171) -/

/-- `fault_entry(kind, a)`. CUR, STK and the working registers are left as they are (log 15). -/
def faultEntry (k : DecodeFault) (a : Nat) (s : State) : State :=
  { s with derr := some k, epos := a, tree := none, phase := .fault, vsum := none, value := none }

/-- `raise <Kind>(a)`: the step ends with fault entry; what it did before stays done (41_packet_decoder.md R119, R126). -/
def raise (k : DecodeFault) (a : Nat) (s : State) : Result := .next (faultEntry k a s)

/-! ## Completion (41_packet_decoder.md R125, 42_evaluator.md R155) -/

/-- VALUE after `folds(p)`: no value on an evaluation error. -/
def EvalResult.toValue : EvalResult → Option Value
  | .ok v => some (BitVec.ofNat 64 v)
  | .err _ => none

/-- EVERR after `folds(p)`. -/
def EvalResult.toFault : EvalResult → Option EvalFault
  | .ok _ => none
  | .err k => some k

/-- The end of the run: TREE, ENDPOS, the folds, DONE (41_packet_decoder.md R125, 42_evaluator.md R155). -/
def finishRun (p : Packet) (s : State) : State :=
  { s with
    tree := some p, endpos := s.cur.pos,
    vsum := some p.countVersions, value := p.evaluate.toValue, everr := p.evaluate.toFault,
    phase := .done }

/-- `COMPLETE(p)` (41_packet_decoder.md R125): the outermost packet ends the run, any other joins the top frame. -/
def complete (p : Packet) (s : State) : State :=
  match s.stk with
  | [] => finishRun p s
  | f :: rest => setPhase .next (setStk ({ f with children := f.children ++ [p] } :: rest) s)

/-- The packet a frame completes to (41_packet_decoder.md R115, R124). -/
def Frame.packet (f : Frame) : Packet := .operator f.ver f.kind (Packets.ofList f.children)

/-- Push a frame; the NEXT step follows (41_packet_decoder.md R122). -/
def pushFrame (f : Frame) (s : State) : State := { s with stk := f :: s.stk, phase := .next }

/-! ## START and reset -/

/-- The state START leaves (41_packet_decoder.md R120, 10_state.md R35 right column). The working registers are
unspecified: each takes a free value (log 3). -/
def startState (s : State) : State :=
  { s with
    cur := rootCursor s.buflen, stk := [], phase := .hdr,
    tree := none, derr := none, everr := none, epos := 0, endpos := 0, vsum := none, value := none,
    rdata := (Config.freeValue s.free).setWidth 16,
    ver := (Config.freeValue (s.free + 1)).setWidth 3,
    tid := (Config.freeValue (s.free + 2)).setWidth 3,
    ltid := (Config.freeValue (s.free + 3)).setWidth 1,
    tlen := (Config.freeValue (s.free + 4)).setWidth 15,
    pcnt := (Config.freeValue (s.free + 5)).setWidth 11,
    grp := (Config.freeValue (s.free + 6)).setWidth 5,
    acc := Config.freeValue (s.free + 7),
    free := s.free + 8 }

/-- The state RESET and SRESET leave (70_reset_and_hazards.md R190, R191). The parameters, the pending inputs and the
counter of free values are no state of the block and stay (log 18). -/
def resetState (s : State) : State :=
  { State.reset with params := s.params, inputs := s.inputs, free := s.free }

end Sys2Proof.Machine
end

