-- ==== Sys2Proof/Machine/Operands.lean ====
section
/-! DEFINITION. How a step takes its operands from the stream: one `read_bits` per field (40_bitcursor.md R81,
41_packet_decoder.md R100, R112, decision D11), each of which may raise UnexpectedEnd. -/

namespace Sys2Proof.Machine

open Sys2Proof

/-- `read_bits(n)` of a field whose value the decoder has taken from the stream: UnexpectedEnd with nothing changed where
REM < n, else POS and RDATA advance and the step goes on (40_bitcursor.md R81, R86). -/
def consume {n : Nat} (v : BitVec n) (s : State) (k : State → Result) : Result :=
  if s.cur.rem < n then raise .unexpectedEnd s.cur.addr s else k (advance n (v.setWidth 16) s)

/-- What `read_bits(n)` on the current cursor finds. -/
inductive CursorRead where
  /-- the value read -/
  | data (v : Nat)
  /-- REM < n: UnexpectedEnd -/
  | short
  /-- MemRead is not defined there -/
  | outside
deriving DecidableEq, Repr

/-- `read_bits(n)` from the buffer itself (40_bitcursor.md R81): the check of the range, then MemRead at A. -/
def readBits (n : Nat) (s : State) : CursorRead :=
  if s.cur.rem < n then .short
  else
    match memRead s s.cur.addr n with
    | none => .outside
    | some v => .data v

end Sys2Proof.Machine
end

