-- ==== Sys2Proof/Machine/CursorCommands.lean ====
section
/-! DEFINITION. The BitCursor's command words RDB, EXH, SUBV, SKIP on the current cursor (30_encoding.md R75,
40_bitcursor.md R81 to R86). -/

namespace Sys2Proof.Machine

open Sys2Proof

/-- A command that raises (40_bitcursor.md R81, R83, R84, R86): the fail bit, nothing else changed. Inside a run the
command is the sequencer's own, and the raise is fault entry with UnexpectedEnd at A (60_exceptions.md R171); `step` takes
no command word from outside there. Outside a run there is no run to abandon (log 8). -/
def commandFails (s : State) : Result :=
  if s.busy then raise .unexpectedEnd s.cur.addr (setResponse .failed s) else .next (setResponse .failed s)

/-- RDB n (40_bitcursor.md R81): `read_bits(n)` from the buffer; n outside 1..16 is refused (R85). DESIGN CHOICE, safe
(log 23): outside a run CUR may be left from an earlier run while a shorter LOAD has put BUFLEN below it; a read that
passes the check of CUR's range but not `addr + n <= BUFLEN` (20_memory.md R46) faults, since MemRead is not defined
there and the spec gives no command outside a run (D24). -/
def execRdb (n : CommandArg) (s : State) : Result :=
  if 1 ≤ n.toNat ∧ n.toNat ≤ 16 then
    match readBits n.toNat s with
    | .short => commandFails s
    | .outside => .fault .outsideBuffer
    | .data v => .next (setResponse (.data (BitVec.ofNat 16 v)) (advance n.toNat (BitVec.ofNat 16 v) s))
  else .refused .readWidth

/-- EXH (40_bitcursor.md R82): the exhaustion flag of the current cursor; ARG is ignored. -/
def execExh (_ignored : CommandArg) (s : State) : Result :=
  .next (setResponse (.exhausted (s.cur.exhausted s.params.exhSlack)) s)

/-- SUBV c (40_bitcursor.md R83): a new triple, the parent unchanged. -/
def execSubv (count : CommandArg) (s : State) : Result :=
  match s.cur.subView count.toNat with
  | none => commandFails s
  | some view => .next (setResponse (.view view) s)

/-- SKIP c (40_bitcursor.md R84): POS advances without reading; RDATA is not written. -/
def execSkip (count : CommandArg) (s : State) : Result :=
  match s.cur.skip count.toNat with
  | none => commandFails s
  | some c => .next (setResponse .skipped (setCur c s))

end Sys2Proof.Machine
end

