-- ==== Sys2Proof/Machine/HostCommands.lean ====
section
/-! DEFINITION. The host: its two commands START and SRESET, and the transactions that have no command encoding, LOAD and
register reads (70_reset_and_hazards.md R199). -/

namespace Sys2Proof.Machine

open Sys2Proof

/-- START (41_packet_decoder.md R120): "in BUSY the command is refused and nothing changes". -/
def execStart (s : State) : Result :=
  if s.busy then .next s else .next (startState s)

/-- SRESET (70_reset_and_hazards.md R190): accepted in every STATUS; the START bit beside it is ignored (10_state.md
R32). -/
def execSreset (_startBit : Bool) (s : State) : Result := .next (resetState s)

/-- Whether LOAD of `len` bits is within MAXBITS (10_state.md R11). -/
def loadFits (p : Params) (len : Nat) : Bool :=
  match p.maxBits with
  | none => true
  | some m => decide (len ≤ m)

/-- BUF and BUFLEN written, from the bits of the buffer. -/
def setBuffer (bits : List Bool) (s : State) : State := { s with mem := packBits bits, buflen := bits.length }

/-- The data a register read returned (log 21). -/
def setReadData (v : ReadData) (s : State) : State := { s with readData := v }

/-- What is still to arrive from outside (log 5). -/
def setInputs (v : List Input) (s : State) : State := { s with inputs := v }

/-- LOAD(bits, len) (20_memory.md R51, 70_reset_and_hazards.md R199): refused without effect while BUSY or where `len >
MAXBITS`; else BUF and BUFLEN are replaced and nothing else changes. -/
def hostLoad (bits : List Bool) (s : State) : State :=
  if !s.busy && loadFits s.params bits.length then setBuffer bits s else s

/-- A register read (70_reset_and_hazards.md R199, 10_state.md R27 to R33): VSUM and VALUE give no number unless STATUS is
DONE, VALUE unless EVERR is 0; CTRL reads 0. -/
def hostRead (s : State) : HostReg → ReadData
  | .status => .word s.phase.status.toNat
  | .err => .word s.err.toNat
  | .epos => .word s.epos
  | .endpos => .word s.endpos
  | .buflen => .word s.buflen
  | .vsum =>
    match s.phase, s.vsum with
    | .done, some v => .word v
    | _, _ => .noValue
  | .value =>
    match s.phase, s.everr, s.value with
    | .done, none, some v => .word v.toNat
    | _, _, _ => .noValue
  | .ctrl => .word 0
  | .tree => .tree s.tree

end Sys2Proof.Machine
end

