-- ==== Sys2Proof/Machine/Literal.lean ====
section
/-! DEFINITION. The packet header step and the literal: LIT, GRP.C, GRP.F (41_packet_decoder.md R100 to R103, R121,
R123). -/

namespace Sys2Proof.Machine

open Sys2Proof

/-- step_HDR of a packet with version `v` and type id `t` (41_packet_decoder.md R121): two reads of three bits. -/
def headerStep (v : Version) (t : TypeId) (s : State) : Result :=
  consume v s fun s =>
  consume t (setVer v s) fun s =>
  if t = literalTypeId then .next (setPhase .lit (setAcc 0 (setTid t s)))
  else .next (setPhase .oph (setTid t s))

/-- step_LIT on the group `g` (41_packet_decoder.md R123). -/
def groupStep (g : BitVec 5) (s : State) : Result :=
  consume g s fun s =>
  if accFull s.acc then raise .literalOverflow s.cur.addr (setGrp g s)
  else if continues g then .next (setAcc (accumulate s.acc (payload g)) (setGrp g s))
  else .next (complete (.literal s.ver (accumulate s.acc (payload g)))
    (setAcc (accumulate s.acc (payload g)) (setGrp g s)))

/-- LIT (41_packet_decoder.md R100 to R102, R121): the header of a literal clears ACC and opens the group loop. -/
def execLit (ver : Version) (s : State) : Result :=
  match s.phase with
  | .hdr => headerStep ver literalTypeId s
  | .idle | .oph | .lit | .next | .done | .fault => .refused .notEnabled

/-- GRP.C (41_packet_decoder.md R102, R123): a group with the continuation flag 1. -/
def execGrpC (d : Nibble) (s : State) : Result :=
  match s.phase with
  | .lit => groupStep (groupOf true d) s
  | .idle | .hdr | .oph | .next | .done | .fault => .refused .notEnabled

/-- GRP.F (41_packet_decoder.md R102, R123, R125): the last group completes the literal. -/
def execGrpF (d : Nibble) (s : State) : Result :=
  match s.phase with
  | .lit => groupStep (groupOf false d) s
  | .idle | .hdr | .oph | .next | .done | .fault => .refused .notEnabled

end Sys2Proof.Machine
end

