-- ==== Sys2Proof/Machine/OperatorL0.lean ====
section
/-! DEFINITION. The operators with total declared length, format OP0: SUM.L0 to EQ.L0 (41_packet_decoder.md R104 to R113,
R122, R124). -/

namespace Sys2Proof.Machine

open Sys2Proof

/-- step_OPH of an OP0 packet (41_packet_decoder.md R113, R122): the length-type id 0, the 15-bit length, the sub-view,
the depth guard, the push; CUR becomes the window. -/
def openWindow (k : Kind) (ver : Version) (len : TotalLength) (s : State) : Result :=
  consume (0#1) s fun s =>
  consume len (setLtid 0 s) fun s =>
  match s.cur.subView len.toNat with
  | none => raise .unexpectedEnd s.cur.addr (setTlen len s)
  | some view =>
    if s.stackFull then raise .depthExceeded s.cur.addr (setTlen len s)
    else .next (pushFrame { ver := ver, kind := k, mode := .l0 len s.cur, children := [] } (setCur view (setTlen len s)))

/-- step_NEXT with the MODE 0 frame `f` on top (41_packet_decoder.md R124): another child, or the length check, the
restored and skipped parent cursor, the pop and the completion, as one action. -/
def nextWindow (f : Frame) (total : TotalLength) (parent : Cursor) (rest : List Frame) (s : State) : Result :=
  if s.cur.exhausted s.params.exhSlack then
    if s.cur.pos ≠ total.toNat then raise .lengthMismatch s.cur.addr s
    else
      match parent.skip total.toNat with
      | none => raise .unexpectedEnd parent.addr (setCur parent s)
      | some c => .next (complete f.packet (setStk rest (setCur c s)))
  else .next (setPhase .hdr s)

/-- An OP0 packet, one sequencer step of it: its header in HDR; its length and push in OPH, when VER and TID hold this
packet's header; each NEXT step while its own frame is on top (41_packet_decoder.md R121, R122, R124, R128; log 6). -/
def packetL0 (k : Kind) (ver : Version) (len : TotalLength) (s : State) : Result :=
  match s.phase with
  | .hdr => headerStep ver k.typeId s
  | .oph => if s.ver = ver ∧ s.tid = k.typeId then openWindow k ver len s else .refused .notEnabled
  | .next =>
    match s.stk with
    | [] => .fault .emptyStack
    | f :: rest =>
      match f.mode with
      | .l0 total parent =>
        if f.ver = ver ∧ f.kind = k ∧ total = len then nextWindow f total parent rest s else .refused .notEnabled
      | .l1 _ => .refused .notEnabled
  | .idle | .lit | .done | .fault => .refused .notEnabled

/-- SUM.L0 (41_packet_decoder.md R105, R113). -/
def execSumL0 (ver : Version) (len : TotalLength) (s : State) : Result := packetL0 .sum ver len s

/-- PROD.L0 (41_packet_decoder.md R106, R113). -/
def execProdL0 (ver : Version) (len : TotalLength) (s : State) : Result := packetL0 .product ver len s

/-- MIN.L0 (41_packet_decoder.md R107, R113). -/
def execMinL0 (ver : Version) (len : TotalLength) (s : State) : Result := packetL0 .min ver len s

/-- MAX.L0 (41_packet_decoder.md R108, R113). -/
def execMaxL0 (ver : Version) (len : TotalLength) (s : State) : Result := packetL0 .max ver len s

/-- GT.L0 (41_packet_decoder.md R109, R113). -/
def execGtL0 (ver : Version) (len : TotalLength) (s : State) : Result := packetL0 .greaterThan ver len s

/-- LT.L0 (41_packet_decoder.md R110, R113). -/
def execLtL0 (ver : Version) (len : TotalLength) (s : State) : Result := packetL0 .lessThan ver len s

/-- EQ.L0 (41_packet_decoder.md R111, R113). -/
def execEqL0 (ver : Version) (len : TotalLength) (s : State) : Result := packetL0 .equalTo ver len s

end Sys2Proof.Machine
end

