-- ==== Sys2Proof/Machine/OperatorL1.lean ====
section
/-! DEFINITION. The operators with explicit child count, format OP1: SUM.L1 to EQ.L1 (41_packet_decoder.md R104 to R112,
R114, R122, R124). -/

namespace Sys2Proof.Machine

open Sys2Proof

/-- step_OPH of an OP1 packet (41_packet_decoder.md R114, R122): the length-type id 1, the 11-bit count, the depth guard,
the push; CUR stays. -/
def openCount (k : Kind) (ver : Version) (cnt : PacketCount) (s : State) : Result :=
  consume (1#1) s fun s =>
  consume cnt (setLtid 1 s) fun s =>
  if s.stackFull then raise .depthExceeded s.cur.addr (setPcnt cnt s)
  else .next (pushFrame { ver := ver, kind := k, mode := .l1 cnt, children := [] } (setPcnt cnt s))

/-- step_NEXT with the MODE 1 frame `f` on top (41_packet_decoder.md R124): the pop and the completion at count 0, else
one child less to decode. -/
def nextCount (f : Frame) (cnt : PacketCount) (rest : List Frame) (s : State) : Result :=
  if cnt = 0 then .next (complete f.packet (setStk rest s))
  else .next (setPhase .hdr (setStk ({ f with mode := .l1 (cnt - 1) } :: rest) s))

/-- An OP1 packet, one sequencer step of it: its header in HDR; its count and push in OPH, when VER and TID hold this
packet's header; each NEXT step while its own frame is on top, the operand being the children still to decode
(41_packet_decoder.md R121, R122, R124, R128; log 6). -/
def packetL1 (k : Kind) (ver : Version) (cnt : PacketCount) (s : State) : Result :=
  match s.phase with
  | .hdr => headerStep ver k.typeId s
  | .oph => if s.ver = ver ∧ s.tid = k.typeId then openCount k ver cnt s else .refused .notEnabled
  | .next =>
    match s.stk with
    | [] => .fault .emptyStack
    | f :: rest =>
      match f.mode with
      | .l0 _ _ => .refused .notEnabled
      | .l1 left =>
        if f.ver = ver ∧ f.kind = k ∧ left = cnt then nextCount f left rest s else .refused .notEnabled
  | .idle | .lit | .done | .fault => .refused .notEnabled

/-- SUM.L1 (41_packet_decoder.md R105, R114). -/
def execSumL1 (ver : Version) (cnt : PacketCount) (s : State) : Result := packetL1 .sum ver cnt s

/-- PROD.L1 (41_packet_decoder.md R106, R114). -/
def execProdL1 (ver : Version) (cnt : PacketCount) (s : State) : Result := packetL1 .product ver cnt s

/-- MIN.L1 (41_packet_decoder.md R107, R114). -/
def execMinL1 (ver : Version) (cnt : PacketCount) (s : State) : Result := packetL1 .min ver cnt s

/-- MAX.L1 (41_packet_decoder.md R108, R114). -/
def execMaxL1 (ver : Version) (cnt : PacketCount) (s : State) : Result := packetL1 .max ver cnt s

/-- GT.L1 (41_packet_decoder.md R109, R114). -/
def execGtL1 (ver : Version) (cnt : PacketCount) (s : State) : Result := packetL1 .greaterThan ver cnt s

/-- LT.L1 (41_packet_decoder.md R110, R114). -/
def execLtL1 (ver : Version) (cnt : PacketCount) (s : State) : Result := packetL1 .lessThan ver cnt s

/-- EQ.L1 (41_packet_decoder.md R111, R114). -/
def execEqL1 (ver : Version) (cnt : PacketCount) (s : State) : Result := packetL1 .equalTo ver cnt s

end Sys2Proof.Machine
end

