-- ==== Sys2Proof/Machine/Dispatch.lean ====
section
/-! DEFINITION. One arm per instruction: each is one call of that instruction's own meaning. -/

namespace Sys2Proof.Machine

open Sys2Proof

def exec (i : Instr) (s : State) : Host.Outcome State Fault Refusal :=
    match i with
    | .lit ver => Sys2Proof.Machine.execLit ver s
    | .sumL0 ver len => Sys2Proof.Machine.execSumL0 ver len s
    | .sumL1 ver cnt => Sys2Proof.Machine.execSumL1 ver cnt s
    | .prodL0 ver len => Sys2Proof.Machine.execProdL0 ver len s
    | .prodL1 ver cnt => Sys2Proof.Machine.execProdL1 ver cnt s
    | .minL0 ver len => Sys2Proof.Machine.execMinL0 ver len s
    | .minL1 ver cnt => Sys2Proof.Machine.execMinL1 ver cnt s
    | .maxL0 ver len => Sys2Proof.Machine.execMaxL0 ver len s
    | .maxL1 ver cnt => Sys2Proof.Machine.execMaxL1 ver cnt s
    | .gtL0 ver len => Sys2Proof.Machine.execGtL0 ver len s
    | .gtL1 ver cnt => Sys2Proof.Machine.execGtL1 ver cnt s
    | .ltL0 ver len => Sys2Proof.Machine.execLtL0 ver len s
    | .ltL1 ver cnt => Sys2Proof.Machine.execLtL1 ver cnt s
    | .eqL0 ver len => Sys2Proof.Machine.execEqL0 ver len s
    | .eqL1 ver cnt => Sys2Proof.Machine.execEqL1 ver cnt s
    | .grpC d => Sys2Proof.Machine.execGrpC d s
    | .grpF d => Sys2Proof.Machine.execGrpF d s
    | .rdb n => Sys2Proof.Machine.execRdb n s
    | .exh ignored => Sys2Proof.Machine.execExh ignored s
    | .subv count => Sys2Proof.Machine.execSubv count s
    | .skip count => Sys2Proof.Machine.execSkip count s
    | .start => Sys2Proof.Machine.execStart s
    | .sreset startBit => Sys2Proof.Machine.execSreset startBit s

end Sys2Proof.Machine
end

