-- ==== Sys2Proof/Machine/Sequencer.lean ====
section
/-! DEFINITION. What the machine does in one step: which instruction the sequencer is at (41_packet_decoder.md R119), what
it does where the stream ends inside a form, and how an input from outside is taken. -/

namespace Sys2Proof.Machine

open Sys2Proof

/-- The longest form the decoder looks at: an OP0 header, 22 bits (30_encoding.md R64). -/
def longestForm : Nat := 22

/-- The stream bits from A on, at most the longest form and never past the cursor's range (20_memory.md R47). `none` where
the range reaches outside the buffer, which no cursor of a run does (10_state.md R12). -/
def lookahead (s : State) : Option (List Bool) :=
  let n := min s.cur.rem longestForm
  if n = 0 ∨ s.cur.addr + n ≤ s.buflen then some (peek s.mem s.cur.addr n) else none

/-- The instruction a frame on top of the stack belongs to: its kind, version and mode, with the declared length or the
children still to decode (41_packet_decoder.md R124; log 6). -/
def Frame.instr (f : Frame) : Instr :=
  match f.mode with
  | .l0 total _ => Instr.ofL0 f.kind f.ver total
  | .l1 cnt => Instr.ofL1 f.kind f.ver cnt

/-- What the sequencer is at. -/
inductive Fetched where
  /-- an instruction -/
  | run (i : Instr)
  /-- the stream ends inside the form in hand; the bits there are -/
  | cut (bits : List Bool)
  /-- nothing: only the host can act (41_packet_decoder.md R119) -/
  | wait
  /-- the cursor's range reaches outside the buffer -/
  | outside
  /-- NEXT without a frame -/
  | noFrame
deriving DecidableEq, Repr

/-- A decoded form, or the bits that did not make one. -/
def Fetched.ofDecoded (bits : List Bool) : Decoded → Fetched
  | .ok (i, _) => .run i
  | .error _ => .cut bits

/-- The instruction the sequencer is at, by PHASE (41_packet_decoder.md R119, R121 to R124): in HDR the form that starts at
A; in OPH the form whose version and type id are in VER and TID and whose rest starts at A; in LIT the group that starts
at A; in NEXT the operator of the top frame. -/
def fetch (s : State) : Fetched :=
  match s.phase with
  | .idle | .done | .fault => .wait
  | .hdr =>
    match lookahead s with
    | none => .outside
    | some bits => .ofDecoded bits (decodeHeader bits)
  | .oph =>
    match lookahead s with
    | none => .outside
    | some bits => .ofDecoded bits (decodeHeader (fieldBits s.ver ++ fieldBits s.tid ++ bits))
  | .lit =>
    match lookahead s with
    | none => .outside
    | some bits => .ofDecoded bits (decodeGroup bits)
  | .next =>
    match s.stk with
    | [] => .noFrame
    | f :: _ => .run f.instr

/-- step_HDR where the stream ends inside the form (41_packet_decoder.md R100, R121): it reads the version and the type id
like any other; a missing one raises, and the missing rest of an operator is the OPH step's. -/
def cutHeader (bits : List Bool) (s : State) : Result :=
  headerStep (BitVec.ofNat 3 (bitsToNat (bits.take 3))) (BitVec.ofNat 3 (bitsToNat ((bits.drop 3).take 3))) s

/-- step_OPH where the stream ends inside the form (41_packet_decoder.md R112 to R114, R122): the length-type id or the
length field after it raises UnexpectedEnd. -/
def cutOperator (bits : List Bool) (s : State) : Result :=
  match bits with
  | [] => raise .unexpectedEnd s.cur.addr s
  | b :: _ =>
    raise .unexpectedEnd (s.cur.addr + 1) (setLtid (BitVec.ofBool b) (advance 1 ((BitVec.ofBool b).setWidth 16) s))

/-- The step of the running phase where the stream ends inside the form in hand. -/
def runCut (bits : List Bool) (s : State) : Result :=
  match s.phase with
  | .hdr => cutHeader bits s
  | .oph => cutOperator bits s
  | .lit => raise .unexpectedEnd s.cur.addr s
  | .idle | .next | .done | .fault => .next s

/-- The sequencer's step (41_packet_decoder.md R119). In IDLE, DONE and FAULT nothing happens: waiting for the host is the
defined behaviour (93_implementation_defined.md, the note after U18). -/
def sequencerStep (s : State) : Result :=
  match fetch s with
  | .run i => exec i s
  | .cut bits => runCut bits s
  | .wait => .next s
  | .outside => .fault .outsideBuffer
  | .noFrame => .fault .emptyStack

/-- A command word at the BitCursor's port (30_encoding.md R75; log 8). During a run CUR belongs to the sequencer alone
(70_reset_and_hazards.md R195) and nothing but a reset disturbs the run (R199, 60_exceptions.md R174), so the word has no
effect; outside a run it is that command on CUR. -/
def takeCommand (w : CommandWord) (s : State) : Result :=
  if s.busy then .next s else exec (decodeCommand w) s

/-- What an input does (70_reset_and_hazards.md R199). A refused action has no effect on any state (log 22). -/
def takeInput (i : Input) (s : State) : Result :=
  match i with
  | .pause => sequencerStep s
  | .reset => .next (resetState s)
  | .load bits => .next (hostLoad bits s)
  | .control v =>
    match decodeControl v with
    | .ok i => exec i s
    | .error _ => .next s
  | .writeReadOnly _ => .next s
  | .read r => .next (setReadData (hostRead s r) s)
  | .command w => takeCommand w s

/-- One step of the machine: the next input if one is pending, else the sequencer (log 5). -/
def machineStep (s : State) : Result :=
  match s.inputs with
  | [] => sequencerStep s
  | i :: rest => takeInput i (setInputs rest s)

/-- A state about to run the form that starts a buffer of the given bits: the buffer, the root cursor, an empty stack, no
pending input (log 12). -/
def placeStream (bits : List Bool) (ph : Phase) (s : State) : State :=
  { s with
    mem := packBits bits, buflen := bits.length, cur := rootCursor bits.length, stk := [], phase := ph, inputs := [] }

/-- A command word as the next input, outside a run, where the port takes it (log 12). -/
def placeCommand (w : CommandWord) (s : State) : State :=
  { s with phase := if s.busy then .idle else s.phase, inputs := .command w :: s.inputs }

/-- A word of code placed where `machineStep` takes its next instruction (log 12). -/
def placeCode (c : Code) (s : State) : State :=
  match c with
  | .header bits => placeStream bits .hdr s
  | .group bits => placeStream bits .lit s
  | .command w => placeCommand w s
  | .control v => { s with inputs := .control v :: s.inputs }

end Sys2Proof.Machine
end

