-- ==== Sys2Proof/Machine/Step.lean ====
section
/-! DEFINITION. One step of the machine, and a table word placed where the step takes its next instruction. -/

namespace Sys2Proof.Machine

open Sys2Proof

/-- One step: an input from outside, or a sequencer step (00_scope.md R6, 41_packet_decoder.md R119). -/
def step (s : State) : Host.Outcome State Fault Refusal := machineStep s

/-- The state with a word of spec/opcode_table.json placed where `step` takes its next instruction (log 12). -/
def State.withFetchWord (s : State) (nbits w : Nat) : State :=
  match tableCode nbits w with
  | none => s
  | some c => placeCode c s

end Sys2Proof.Machine
end

