-- ==== Sys2Proof/Machine/Reference.lean ====
section
/-! DEFINITION. The complete recursive definition of `decode_packet` (41_packet_decoder.md R118), the normative reference
the step machine is held against (R127). It stands beside the machine: no step calls it. The recursion is on a fuel, which
`refRun` makes large enough. -/

namespace Sys2Proof.Machine

open Sys2Proof

/-- What a call of `decode_packet` answers. -/
inductive RefResult where
  | ok (p : Packet) (c : Cursor)
  | raised (k : DecodeFault) (a : Nat)
  | outOfFuel
deriving DecidableEq, Repr

/-- What a loop over children answers: the children and the cursor they left. -/
inductive RefChildren where
  | ok (ps : List Packet) (c : Cursor)
  | raised (k : DecodeFault) (a : Nat)
  | outOfFuel
deriving DecidableEq, Repr

/-- `read_bits(c, n)` (40_bitcursor.md R81): the value and the cursor after it, `none` where it raises. -/
def refRead (m : List Host.Cell) (n : Nat) (c : Cursor) : Option (BitVec n × Cursor) :=
  if c.rem < n then none
  else some (BitVec.ofNat n (readNat m c.addr n), { c with pos := c.pos + n })

/-- The group loop (41_packet_decoder.md R102, R118). -/
def refGroups (m : List Host.Cell) (ver : Version) : Nat → Value → Cursor → RefResult
  | 0, _, _ => .outOfFuel
  | fuel + 1, acc, c =>
    match refRead m 5 c with
    | none => .raised .unexpectedEnd c.addr
    | some (g, c) =>
      if accFull acc then .raised .literalOverflow c.addr
      else if continues g then refGroups m ver fuel (accumulate acc (payload g)) c
      else .ok (.literal ver (accumulate acc (payload g))) c

/-- `d = MAXDEPTH` (41_packet_decoder.md R118). -/
def atMaxDepth (p : Params) (d : Nat) : Bool :=
  match p.maxDepth with
  | none => false
  | some m => decide (d = m)

/-- `if s.POS != total_length then raise LengthMismatch(s.A)`, then `c <- skip(c, total_length)` and the packet
(41_packet_decoder.md R113, R118): what follows the children of an OP0 packet whose parent cursor is `c`. -/
def refCloseL0 (ver : Version) (k : Kind) (total : TotalLength) (c : Cursor) : RefChildren → RefResult
  | .outOfFuel => .outOfFuel
  | .raised e a => .raised e a
  | .ok children view =>
    if view.pos ≠ total.toNat then .raised .lengthMismatch view.addr
    else
      match c.skip total.toNat with
      | none => .raised .unexpectedEnd c.addr
      | some c => .ok (.operator ver k (Packets.ofList children)) c

/-- What follows the children of an OP1 packet (41_packet_decoder.md R114, R118). -/
def refCloseL1 (ver : Version) (k : Kind) : RefChildren → RefResult
  | .outOfFuel => .outOfFuel
  | .raised e a => .raised e a
  | .ok children c => .ok (.operator ver k (Packets.ofList children)) c

mutual

/-- `decode_packet(c, d)` (41_packet_decoder.md R118). -/
def refPacket (p : Params) (m : List Host.Cell) : Nat → Cursor → Nat → RefResult
  | 0, _, _ => .outOfFuel
  | fuel + 1, c, d =>
    match refRead m 3 c with
    | none => .raised .unexpectedEnd c.addr
    | some (ver, c) =>
      match refRead m 3 c with
      | none => .raised .unexpectedEnd c.addr
      | some (tid, c) =>
        match kindOf tid with
        | none => refGroups m ver fuel 0 c
        | some k =>
          match refRead m 1 c with
          | none => .raised .unexpectedEnd c.addr
          | some (ltid, c) =>
            if ltid = 0 then
              match refRead m 15 c with
              | none => .raised .unexpectedEnd c.addr
              | some (total, c) =>
                match c.subView total.toNat with
                | none => .raised .unexpectedEnd c.addr
                | some view =>
                  if atMaxDepth p d then .raised .depthExceeded c.addr
                  else refCloseL0 ver k total c (refWindow p m fuel view (d + 1))
            else
              match refRead m 11 c with
              | none => .raised .unexpectedEnd c.addr
              | some (count, c) =>
                if atMaxDepth p d then .raised .depthExceeded c.addr
                else refCloseL1 ver k (refCount p m fuel count.toNat c (d + 1))
termination_by structural fuel => fuel

/-- `while not is_exhausted(s) do children <- children ++ [decode_packet(s, d + 1)]` (41_packet_decoder.md R113,
R118). -/
def refWindow (p : Params) (m : List Host.Cell) : Nat → Cursor → Nat → RefChildren
  | 0, _, _ => .outOfFuel
  | fuel + 1, c, d =>
    if c.exhausted p.exhSlack then .ok [] c
    else
      match refPacket p m fuel c d with
      | .outOfFuel => .outOfFuel
      | .raised k a => .raised k a
      | .ok first c =>
        match refWindow p m fuel c d with
        | .outOfFuel => .outOfFuel
        | .raised k a => .raised k a
        | .ok rest c => .ok (first :: rest) c
termination_by structural fuel => fuel

/-- `repeat count times children <- children ++ [decode_packet(c, d + 1)]` (41_packet_decoder.md R114, R118). -/
def refCount (p : Params) (m : List Host.Cell) : Nat → Nat → Cursor → Nat → RefChildren
  | 0, _, _, _ => .outOfFuel
  | fuel + 1, count, c, d =>
    match count with
    | 0 => .ok [] c
    | count + 1 =>
      match refPacket p m fuel c d with
      | .outOfFuel => .outOfFuel
      | .raised k a => .raised k a
      | .ok first c =>
        match refCount p m fuel count c d with
        | .outOfFuel => .outOfFuel
        | .raised k a => .raised k a
        | .ok rest c => .ok (first :: rest) c
termination_by structural fuel => fuel

end

/-- A run by the recursive definition: `c <- (0, BUFLEN, 0); p <- decode_packet(c, 0)` (41_packet_decoder.md R118). The
fuel exceeds what any buffer of that length takes, since every call and every turn of a loop reads bits (R129). -/
def refRun (p : Params) (m : List Host.Cell) (buflen : Nat) : RefResult :=
  refPacket p m (buflen + 2) (rootCursor buflen) 0

end Sys2Proof.Machine
end

