-- ==== Sys2Proof/Safety.lean ====
section
/-! DEFINITION. What a safe state is: the invariant every step keeps, and a safe step. -/

namespace Sys2Proof.Safety

open Sys2Proof Sys2Proof.Machine

/-- The buffer: the store is in canonical form, bits from BUFLEN on are 0, and LOAD's limit is kept (10_state.md R11). -/
def BufferOk (s : State) : Prop :=
  Memory.wf s.mem = true ∧ (∀ i, s.buflen ≤ i → readBit s.mem i = false) ∧
    ∀ m, s.params.maxBits = some m → s.buflen ≤ m

/-- The live cursor and the cursors parked under it (10_state.md R12, R15, 20_memory.md R47): without a MODE 0 frame the
live cursor is the root cursor's range; under a MODE 0 frame it is the window of TOTAL bits that starts where the parent
stands and lies inside the parent. -/
def WindowsOk (buflen : Nat) : List Frame → Cursor → Prop
  | [], c => c.base = 0 ∧ c.len = buflen ∧ c.pos ≤ c.len
  | f :: fs, c =>
    match f.mode with
    | .l1 _ => WindowsOk buflen fs c
    | .l0 total parent =>
      c.base = parent.addr ∧ c.len = total.toNat ∧ c.pos ≤ c.len ∧ parent.pos + total.toNat ≤ parent.len ∧
        WindowsOk buflen fs parent

/-- The frame stack: within MAXDEPTH (10_state.md R19), and at least 18 bits read for every open operator, 6 more while
an operator's header is in hand (30_encoding.md R77, 41_packet_decoder.md R129). -/
def DepthOk (s : State) : Prop :=
  (∀ m, s.params.maxDepth = some m → s.sp ≤ m) ∧
    18 * s.sp + (if s.phase = .oph then 6 else 0) ≤ s.cur.addr

/-- What PHASE says of the working registers and the stack (10_state.md R21, 41_packet_decoder.md R124). -/
def PhaseOk (s : State) : Prop :=
  (s.phase = .lit → s.tid = literalTypeId) ∧ (s.phase = .oph → s.tid ≠ literalTypeId) ∧ (s.phase = .next → s.stk ≠ [])

/-- What STATUS says of the result registers (10_state.md R27 to R31, 70_reset_and_hazards.md R200). -/
def ResultsOk (s : State) : Prop :=
  (s.phase = .done → ∃ p, s.tree = some p ∧ s.vsum = some p.countVersions ∧ s.value = p.evaluate.toValue ∧
      s.everr = p.evaluate.toFault) ∧
    (s.phase ≠ .done → s.tree = none ∧ s.vsum = none ∧ s.value = none ∧ s.everr = none ∧ s.endpos = 0) ∧
    (s.phase = .fault ↔ s.derr ≠ none) ∧ (s.phase ≠ .fault → s.epos = 0)

/-- The invariant of the machine. Cursor, stack and phase are bound only during a run: in IDLE, DONE and FAULT they have
no meaning (60_exceptions.md R171, 93_implementation_defined.md U6). -/
structure Inv (s : State) : Prop where
  buffer : BufferOk s
  windows : s.busy = true → WindowsOk s.buflen s.stk s.cur
  depth : s.busy = true → DepthOk s
  phase : s.busy = true → PhaseOk s
  results : ResultsOk s

/-- The current cursor's range lies in the buffer (10_state.md R12): the part of the invariant a read needs. -/
def CursorInBuffer (s : State) : Prop := s.cur.pos ≤ s.cur.len ∧ s.cur.base + s.cur.len ≤ s.buflen

/-- The field of `n` bits at an address, first stream bit most significant (20_memory.md R41). -/
def fieldAt (s : State) (n : Nat) (a : Nat) : BitVec n := BitVec.ofNat n (readNat s.mem a n)

/-- There is room for a frame: SP is not MAXDEPTH (10_state.md R19). -/
def RoomOnStack (s : State) : Prop := ∀ m, s.params.maxDepth = some m → s.sp ≠ m

/-- The sequencer stands at the beginning of a run, with nothing pending from outside (41_packet_decoder.md R120). -/
def Started (s : State) : Prop :=
  s.inputs = [] ∧ s.phase = .hdr ∧ s.cur = rootCursor s.buflen ∧ s.stk = []

/-- The run is over (70_reset_and_hazards.md R202). -/
def Ended (s : State) : Prop := s.phase = .done ∨ s.phase = .fault

/-- What the host sees of the outcome of a run (10_state.md R33). -/
def SameOutcome (s t : State) : Prop :=
  s.phase = t.phase ∧ s.derr = t.derr ∧ s.everr = t.everr ∧ s.epos = t.epos ∧ s.endpos = t.endpos ∧ s.tree = t.tree ∧
    s.vsum = t.vsum ∧ s.value = t.value

/-- A step that neither faults nor refuses. -/
def StepsOn (s : State) : Prop := ∃ t, step s = .next t

end Sys2Proof.Safety
end

