-- ==== Sys2Proof/Certificates/Slice0/Obligations.lean ====
section
/-! DEFINITION. The statements about the model, from the numbered rules of spec/. -/

open Sys2Proof Sys2Proof.Machine Sys2Proof.Safety

/-! ## Encoding -/

/-- Words written out from the formats of spec/30_encoding.md decode to what they stand for: `vvv100`, `vvvttt0` and 15
bits, `vvvttt1` and 11 bits, a group, a command word, a control value. -/
def Obligations.SpecWordsDecode : Prop :=
  decodeHeader [true, true, false, true, false, false, true, false] = .ok (.lit 6, [true, false]) ∧
  decodeHeader [false, false, true, true, true, false, false,
    false, false, false, false, false, false, false, false, false, false, true, true, false, true, true, true] =
      .ok (.ltL0 1 27, [true]) ∧
  decodeHeader [true, true, true, false, true, true, true,
    false, false, false, false, false, false, false, false, false, true, true, false] = .ok (.maxL1 7 3, [false]) ∧
  decodeGroup [true, false, true, true, true, false] = .ok (.grpC 7, [false]) ∧
  decodeGroup [false, false, true, false, true] = .ok (.grpF 5, []) ∧
  decodeCommand 0x10#17 = .rdb 16 ∧ decodeCommand 0x08005#17 = .exh 5 ∧
  decodeCommand 0x1001B#17 = .subv 27 ∧ decodeCommand 0x1801B#17 = .skip 27 ∧
  decodeControl 1 = .ok .start ∧ decodeControl 2 = .ok (.sreset false) ∧ decodeControl 3 = .ok (.sreset true)

/-- Decode and encode agree for every instruction, with every operand at every value; in the stream, whatever bits
follow. -/
def Obligations.DecodeEncodeRoundTrip : Prop :=
  (∀ i, decode (encode i) = .ok i) ∧
  (∀ i bits rest, encode i = .header bits → decodeHeader (bits ++ rest) = .ok (i, rest)) ∧
  (∀ i bits rest, encode i = .group bits → decodeGroup (bits ++ rest) = .ok (i, rest))

/-- Each word has one reading: a decoded form encodes back to exactly the bits it was read from. -/
def Obligations.EncodeDecodeRoundTrip : Prop :=
  (∀ bits i rest, decodeHeader bits = .ok (i, rest) → ∃ h, encode i = .header h ∧ bits = h ++ rest) ∧
  (∀ bits i rest, decodeGroup bits = .ok (i, rest) → ∃ g, encode i = .group g ∧ bits = g ++ rest) ∧
  (∀ w, encode (decodeCommand w) = .command w) ∧
  (∀ v i, decodeControl v = .ok i → encode i = .control v)

/-- No stream encoding is illegal (30_encoding.md R71): bits that do not end inside the form decode. -/
def Obligations.EveryStreamWordDecodes : Prop :=
  (∀ bits : List Bool, 22 ≤ bits.length → ∃ i rest, decodeHeader bits = .ok (i, rest)) ∧
  (∀ bits : List Bool, 5 ≤ bits.length → ∃ i rest, decodeGroup bits = .ok (i, rest))

/-! ## A step runs the decoded instruction -/

/-- When the sequencer moves (nothing pending, or the host passes), and the bits it stands at decode to an instruction,
the step is exec of it: in HDR the form at A; in OPH the form whose version and type id are in VER and TID; in LIT the
group at A; in NEXT the operator of the top frame. A control value runs likewise, and a command word outside a run. -/
def Obligations.StepRunsDecodedInstruction : Prop :=
  (∀ s, s.inputs = [] → step s = sequencerStep s) ∧
  (∀ s r, s.inputs = .pause :: r → step s = sequencerStep { s with inputs := r }) ∧
  (∀ s bits i rest, s.phase = .hdr → lookahead s = some bits → decodeHeader bits = .ok (i, rest) →
    sequencerStep s = exec i s) ∧
  (∀ s bits i rest, s.phase = .oph → lookahead s = some bits →
    decodeHeader (fieldBits s.ver ++ fieldBits s.tid ++ bits) = .ok (i, rest) → sequencerStep s = exec i s) ∧
  (∀ s bits i rest, s.phase = .lit → lookahead s = some bits → decodeGroup bits = .ok (i, rest) →
    sequencerStep s = exec i s) ∧
  (∀ s f fs, s.phase = .next → s.stk = f :: fs → sequencerStep s = exec f.instr s) ∧
  (∀ s v i r, s.inputs = .control v :: r → decodeControl v = .ok i → step s = exec i { s with inputs := r }) ∧
  (∀ s w r, s.inputs = .command w :: r → s.busy = false → step s = exec (decodeCommand w) { s with inputs := r })

/-! ## The sequencer's steps, from the bits of the buffer -/

/-- step_HDR (41_packet_decoder.md R121): VER and TID are read from the buffer at A, by two reads of three bits; TID 4
clears ACC and opens a literal, anything else an operator; a read that does not fit raises UnexpectedEnd at its own first
bit. -/
def Obligations.HeaderStepFromBuffer : Prop :=
  ∀ s : State, s.inputs = [] → s.phase = .hdr → CursorInBuffer s →
    (6 ≤ s.cur.rem →
      step s = .next { s with
        cur := { s.cur with pos := s.cur.pos + 6 },
        rdata := (fieldAt s 3 (s.cur.addr + 3)).setWidth 16,
        ver := fieldAt s 3 s.cur.addr,
        tid := fieldAt s 3 (s.cur.addr + 3),
        acc := if fieldAt s 3 (s.cur.addr + 3) = 4 then 0 else s.acc,
        phase := if fieldAt s 3 (s.cur.addr + 3) = 4 then .lit else .oph }) ∧
    (s.cur.rem < 3 → step s = .next (faultEntry .unexpectedEnd s.cur.addr s)) ∧
    (3 ≤ s.cur.rem → s.cur.rem < 6 →
      step s = .next (faultEntry .unexpectedEnd (s.cur.addr + 3) { s with
        cur := { s.cur with pos := s.cur.pos + 3 },
        rdata := (fieldAt s 3 s.cur.addr).setWidth 16,
        ver := fieldAt s 3 s.cur.addr }))

/-- step_OPH with length-type id 0 (41_packet_decoder.md R113, R122), from the buffer: the 15-bit length at A + 1, the
window of that length, the frame with the parent cursor parked behind the length field; every way it raises, in the order
of the tests. -/
def Obligations.WindowStepFromBuffer : Prop :=
  ∀ (s : State) (k : Kind), s.inputs = [] → s.phase = .oph → s.tid = k.typeId → CursorInBuffer s → 1 ≤ s.cur.rem →
    readBit s.mem s.cur.addr = false →
    let len := fieldAt s 15 (s.cur.addr + 1)
    let parent : Cursor := { s.cur with pos := s.cur.pos + 16 }
    let read : State := { s with cur := parent, rdata := len.setWidth 16, ltid := 0, tlen := len }
    (s.cur.rem < 16 →
      step s = .next (faultEntry .unexpectedEnd (s.cur.addr + 1) { s with
        cur := { s.cur with pos := s.cur.pos + 1 }, rdata := 0, ltid := 0 })) ∧
    (16 ≤ s.cur.rem → s.cur.rem < 16 + len.toNat → step s = .next (faultEntry .unexpectedEnd (s.cur.addr + 16) read)) ∧
    (16 + len.toNat ≤ s.cur.rem → ¬ RoomOnStack s →
      step s = .next (faultEntry .depthExceeded (s.cur.addr + 16) read)) ∧
    (16 + len.toNat ≤ s.cur.rem → RoomOnStack s →
      step s = .next { read with
        cur := { base := s.cur.addr + 16, len := len.toNat, pos := 0 },
        stk := { ver := s.ver, kind := k, mode := .l0 len parent, children := [] } :: s.stk,
        phase := .next })

/-- step_OPH with length-type id 1 (41_packet_decoder.md R114, R122), from the buffer: the 11-bit count at A + 1, the
frame; CUR stays on the same range; every way it raises. -/
def Obligations.CountStepFromBuffer : Prop :=
  ∀ (s : State) (k : Kind), s.inputs = [] → s.phase = .oph → s.tid = k.typeId → CursorInBuffer s → 1 ≤ s.cur.rem →
    readBit s.mem s.cur.addr = true →
    let cnt := fieldAt s 11 (s.cur.addr + 1)
    let read : State :=
      { s with cur := { s.cur with pos := s.cur.pos + 12 }, rdata := cnt.setWidth 16, ltid := 1, pcnt := cnt }
    (s.cur.rem < 12 →
      step s = .next (faultEntry .unexpectedEnd (s.cur.addr + 1) { s with
        cur := { s.cur with pos := s.cur.pos + 1 }, rdata := 1, ltid := 1 })) ∧
    (12 ≤ s.cur.rem → ¬ RoomOnStack s → step s = .next (faultEntry .depthExceeded (s.cur.addr + 12) read)) ∧
    (12 ≤ s.cur.rem → RoomOnStack s →
      step s = .next { read with
        stk := { ver := s.ver, kind := k, mode := .l1 cnt, children := [] } :: s.stk, phase := .next })

/-- The length-type id itself is missing (41_packet_decoder.md R112): UnexpectedEnd at A, nothing changed before it. -/
def Obligations.LengthTypeIdMissing : Prop :=
  ∀ (s : State) (k : Kind), s.inputs = [] → s.phase = .oph → s.tid = k.typeId → s.cur.rem = 0 →
    step s = .next (faultEntry .unexpectedEnd s.cur.addr s)

/-- step_LIT (41_packet_decoder.md R123), from the buffer: GRP at A; LiteralOverflow behind the group where ACC[63:60] is
not 0; else the payload is shifted in and the flag GRP[4] decides between another group and completion; a missing group
raises UnexpectedEnd at A. -/
def Obligations.GroupStepFromBuffer : Prop :=
  ∀ s : State, s.inputs = [] → s.phase = .lit → CursorInBuffer s →
    let g := fieldAt s 5 s.cur.addr
    let acc := (s.acc <<< 4) ||| (g.extractLsb' 0 4).setWidth 64
    let read : State := { s with cur := { s.cur with pos := s.cur.pos + 5 }, rdata := g.setWidth 16, grp := g }
    (s.cur.rem < 5 → step s = .next (faultEntry .unexpectedEnd s.cur.addr s)) ∧
    (5 ≤ s.cur.rem → s.acc.extractLsb' 60 4 ≠ 0 → step s = .next (faultEntry .literalOverflow (s.cur.addr + 5) read)) ∧
    (5 ≤ s.cur.rem → s.acc.extractLsb' 60 4 = 0 → g.getLsbD 4 = true → step s = .next { read with acc := acc }) ∧
    (5 ≤ s.cur.rem → s.acc.extractLsb' 60 4 = 0 → g.getLsbD 4 = false →
      step s = .next (complete (.literal s.ver acc) { read with acc := acc }))

/-- step_NEXT (41_packet_decoder.md R124) in both modes: another child, LengthMismatch at the stray bits, or the pop and
the completion, with the parent cursor restored and skipped in MODE 0 and one child counted off in MODE 1. The clause in
which the parent cannot be skipped is reached in no run (R113); it raises UnexpectedEnd like any skip (40_bitcursor.md
R84). -/
def Obligations.NextStepDecides : Prop :=
  ∀ (s : State) (f : Frame) (rest : List Frame), s.inputs = [] → s.phase = .next → s.stk = f :: rest →
    (∀ total parent, f.mode = .l0 total parent →
      (s.params.exhSlack < s.cur.rem → step s = .next { s with phase := .hdr }) ∧
      (s.cur.rem ≤ s.params.exhSlack → s.cur.pos ≠ total.toNat →
        step s = .next (faultEntry .lengthMismatch s.cur.addr s)) ∧
      (s.cur.rem ≤ s.params.exhSlack → s.cur.pos = total.toNat → total.toNat ≤ parent.rem →
        step s = .next (complete (.operator f.ver f.kind (Packets.ofList f.children))
          { s with cur := { parent with pos := parent.pos + total.toNat }, stk := rest })) ∧
      (s.cur.rem ≤ s.params.exhSlack → s.cur.pos = total.toNat → parent.rem < total.toNat →
        step s = .next (faultEntry .unexpectedEnd parent.addr { s with cur := parent }))) ∧
    (∀ cnt, f.mode = .l1 cnt →
      (cnt = 0 → step s = .next (complete (.operator f.ver f.kind (Packets.ofList f.children)) { s with stk := rest })) ∧
      (cnt ≠ 0 → step s = .next { s with stk := { f with mode := .l1 (cnt - 1) } :: rest, phase := .hdr }))

/-- COMPLETE (41_packet_decoder.md R125): the outermost packet ends the run, with TREE, ENDPOS and the folds; any other is
appended to the top frame. -/
def Obligations.CompletionOfPacket : Prop :=
  ∀ (p : Packet) (s : State),
    (s.stk = [] → complete p s = { s with
      tree := some p, endpos := s.cur.pos, vsum := some p.countVersions,
      value := p.evaluate.toValue, everr := p.evaluate.toFault, phase := .done }) ∧
    (∀ f rest, s.stk = f :: rest →
      complete p s = { s with stk := { f with children := f.children ++ [p] } :: rest, phase := .next })

/-- The folds fill the result registers (42_evaluator.md R155): VSUM always; VALUE and EVERR by what `evaluate` answers,
6 for EvalMalformed and 7 for EvalOverflow. -/
def Obligations.FoldsFillResults : Prop :=
  ∀ (p : Packet) (s : State), s.stk = [] →
    (complete p s).vsum = some p.countVersions ∧
    (∀ v, p.evaluate = .ok v →
      (complete p s).value = some (BitVec.ofNat 64 v) ∧ (complete p s).everrCode = 0 ∧ v < 2 ^ 64) ∧
    (∀ k, p.evaluate = .err k → (complete p s).value = none ∧ (complete p s).everrCode = k.code) ∧
    EvalFault.evalMalformed.code = 6 ∧ EvalFault.evalOverflow.code = 7

/-- Fault entry (60_exceptions.md R171): DERR, EPOS, TREE, STATUS, PHASE as the rule says, VSUM and VALUE without value,
CUR, STK and the working registers left as they are; the state is sticky, no sequencer step changes it. -/
def Obligations.FaultEntryWrites : Prop :=
  ∀ (k : DecodeFault) (a : Nat) (s : State),
    raise k a s = .next { s with derr := some k, epos := a, tree := none, phase := .fault, vsum := none, value := none } ∧
    (faultEntry k a s).derrCode =
      (match k with | .unexpectedEnd => 1 | .lengthMismatch => 2 | .literalOverflow => 4 | .depthExceeded => 5) ∧
    (faultEntry k a s).phase.status = 3 ∧
    (s.inputs = [] → step (faultEntry k a s) = .next (faultEntry k a s))

/-! ## What each instruction does where it completes -/

/-- LIT (41_packet_decoder.md R100 to R102, R121): in HDR with six bits left the header is taken, ACC is cleared and the
group loop begins; nothing else changes. -/
def Obligations.LiteralHeaderCompletes : Prop :=
  ∀ (ver : Version) (s : State), s.phase = .hdr → 6 ≤ s.cur.rem →
    exec (.lit ver) s = .next { s with
      cur := { s.cur with pos := s.cur.pos + 6 }, rdata := 4, ver := ver, tid := 4, acc := 0, phase := .lit }

/-- The fourteen operator forms (SUM, PROD, MIN, MAX, GT, LT, EQ in .L0 and .L1): in HDR with six bits left the header is
taken and the operator's length header follows; nothing else changes (41_packet_decoder.md R104, R121). -/
def Obligations.OperatorHeadersComplete : Prop :=
  ∀ (k : Kind) (ver : Version) (len : TotalLength) (cnt : PacketCount) (s : State), s.phase = .hdr → 6 ≤ s.cur.rem →
    let t : State := { s with
      cur := { s.cur with pos := s.cur.pos + 6 }, rdata := k.typeId.setWidth 16, ver := ver, tid := k.typeId,
      phase := .oph }
    exec (Instr.ofL0 k ver len) s = .next t ∧ exec (Instr.ofL1 k ver cnt) s = .next t

/-- The seven .L0 forms open their window in OPH: when VER and TID hold the packet's header, its length fits what is left
and there is room on the stack (41_packet_decoder.md R113, R122). -/
def Obligations.WindowOperatorsOpen : Prop :=
  ∀ (k : Kind) (ver : Version) (len : TotalLength) (s : State), s.phase = .oph → s.ver = ver → s.tid = k.typeId →
    16 + len.toNat ≤ s.cur.rem → RoomOnStack s →
    exec (Instr.ofL0 k ver len) s = .next { s with
      cur := { base := s.cur.addr + 16, len := len.toNat, pos := 0 }, rdata := len.setWidth 16, ltid := 0, tlen := len,
      stk := { ver := ver, kind := k, mode := .l0 len { s.cur with pos := s.cur.pos + 16 }, children := [] } :: s.stk,
      phase := .next }

/-- The seven .L1 forms push their count in OPH (41_packet_decoder.md R114, R122). -/
def Obligations.CountOperatorsOpen : Prop :=
  ∀ (k : Kind) (ver : Version) (cnt : PacketCount) (s : State), s.phase = .oph → s.ver = ver → s.tid = k.typeId →
    12 ≤ s.cur.rem → RoomOnStack s →
    exec (Instr.ofL1 k ver cnt) s = .next { s with
      cur := { s.cur with pos := s.cur.pos + 12 }, rdata := cnt.setWidth 16, ltid := 1, pcnt := cnt,
      stk := { ver := ver, kind := k, mode := .l1 cnt, children := [] } :: s.stk, phase := .next }

/-- The fourteen operator forms return `Operator{version, kind, children}` (41_packet_decoder.md R105 to R115): at the
NEXT step at which the window is consumed exactly, or no child is left to count, the frame is popped and the packet
completes. -/
def Obligations.OperatorsReturnTheirPacket : Prop :=
  ∀ (k : Kind) (ver : Version) (children : List Packet) (rest : List Frame) (s : State), s.phase = .next →
    (∀ (len : TotalLength) (parent : Cursor),
      s.stk = { ver := ver, kind := k, mode := .l0 len parent, children := children } :: rest →
      s.cur.rem ≤ s.params.exhSlack → s.cur.pos = len.toNat → len.toNat ≤ parent.rem →
      exec (Instr.ofL0 k ver len) s = .next (complete (.operator ver k (Packets.ofList children))
        { s with cur := { parent with pos := parent.pos + len.toNat }, stk := rest })) ∧
    (s.stk = { ver := ver, kind := k, mode := .l1 0, children := children } :: rest →
      exec (Instr.ofL1 k ver 0) s = .next (complete (.operator ver k (Packets.ofList children)) { s with stk := rest }))

/-- GRP.C and GRP.F (41_packet_decoder.md R102, R123): the payload is shifted into ACC; GRP.C leaves the loop open, GRP.F
completes the literal. -/
def Obligations.GroupsComplete : Prop :=
  ∀ (d : Nibble) (s : State), s.phase = .lit → 5 ≤ s.cur.rem → s.acc.extractLsb' 60 4 = 0 →
    let acc := (s.acc <<< 4) ||| d.setWidth 64
    exec (.grpC d) s = .next { s with
      cur := { s.cur with pos := s.cur.pos + 5 }, rdata := (1#1 ++ d).setWidth 16, grp := 1#1 ++ d, acc := acc } ∧
    exec (.grpF d) s = .next (complete (.literal s.ver acc) { s with
      cur := { s.cur with pos := s.cur.pos + 5 }, rdata := (0#1 ++ d).setWidth 16, grp := 0#1 ++ d, acc := acc })

/-- The value a literal's groups add up to (30_encoding.md R69): with no overflow, one group takes ACC to
`16 * ACC + d`. -/
def Obligations.AccumulatorTakesNibble : Prop :=
  ∀ (acc : Value) (d : Nibble), acc.extractLsb' 60 4 = 0 → (accumulate acc d).toNat = 16 * acc.toNat + d.toNat

/-- RDB n (40_bitcursor.md R81): for n in 1..16 and n bits left it returns the big-endian value at A, zero-extended to 16
bits, advances POS by n and changes nothing else. -/
def Obligations.ReadBitsCompletes : Prop :=
  ∀ (n : CommandArg) (s : State), 1 ≤ n.toNat → n.toNat ≤ 16 → CursorInBuffer s → n.toNat ≤ s.cur.rem →
    exec (.rdb n) s = .next { s with
      cur := { s.cur with pos := s.cur.pos + n.toNat },
      rdata := BitVec.ofNat 16 (readNat s.mem s.cur.addr n.toNat),
      response := some (.data (BitVec.ofNat 16 (readNat s.mem s.cur.addr n.toNat))) } ∧
    readNat s.mem s.cur.addr n.toNat < 2 ^ n.toNat

/-- RDB with n outside 1..16 is refused (40_bitcursor.md R85). -/
def Obligations.ReadWidthRefused : Prop :=
  ∀ (n : CommandArg) (s : State), (n.toNat = 0 ∨ 16 < n.toNat) → exec (.rdb n) s = .refused .readWidth

/-- EXH (40_bitcursor.md R82): true exactly when at most EXH_SLACK bits remain, whatever ARG is; nothing else changes. -/
def Obligations.IsExhaustedCompletes : Prop :=
  ∀ (arg : CommandArg) (s : State),
    exec (.exh arg) s = .next { s with response := some (.exhausted (decide (s.cur.len - s.cur.pos ≤ s.params.exhSlack))) }

/-- SUBV c (40_bitcursor.md R83): a cursor over the next c bits; the parent is unchanged. -/
def Obligations.SubViewCompletes : Prop :=
  ∀ (c : CommandArg) (s : State), c.toNat ≤ s.cur.len - s.cur.pos →
    exec (.subv c) s = .next { s with
      response := some (.view { base := s.cur.base + s.cur.pos, len := c.toNat, pos := 0 }) }

/-- SKIP c (40_bitcursor.md R84): POS advances by c without reading; RDATA is not written. -/
def Obligations.SkipCompletes : Prop :=
  ∀ (c : CommandArg) (s : State), c.toNat ≤ s.cur.len - s.cur.pos →
    exec (.skip c) s = .next { s with
      cur := { s.cur with pos := s.cur.pos + c.toNat }, response := some .skipped }

/-- A cursor operation that needs more bits than remain raises UnexpectedEnd at A and changes nothing else
(40_bitcursor.md R81, R83, R84, R86): inside a run, where the command is the sequencer's own, fault entry follows. That
the fail bit is kept in `response`, and that no fault entry follows outside a run, is the model's choice (log 8). -/
def Obligations.CursorCommandsRaise : Prop :=
  ∀ (n : CommandArg) (s : State), s.cur.rem < n.toNat →
    let failed : State := { s with response := some .failed }
    let t : Result := if s.busy then .next (faultEntry .unexpectedEnd s.cur.addr failed) else .next failed
    (n.toNat ≤ 16 → exec (.rdb n) s = t) ∧ exec (.subv n) s = t ∧ exec (.skip n) s = t

/-- START (41_packet_decoder.md R120) outside a run: the root cursor, an empty stack, cleared results, PHASE HDR; the
buffer stays. That the parameters, what is pending, the last response and the last data read stay is the model's choice:
these fields are its own (logs 4, 5, 8, 21). In BUSY nothing changes. -/
def Obligations.StartBeginsRun : Prop :=
  ∀ s : State,
    (s.busy = true → exec .start s = .next s) ∧
    (s.busy = false → ∃ t, exec .start s = .next t ∧
      t.cur = { base := 0, len := s.buflen, pos := 0 } ∧ t.stk = [] ∧ t.sp = 0 ∧ t.tree = none ∧
      t.derrCode = 0 ∧ t.everrCode = 0 ∧ t.epos = 0 ∧ t.endpos = 0 ∧ t.vsum = none ∧ t.value = none ∧
      t.phase = .hdr ∧ t.phase.status = 1 ∧
      t.mem = s.mem ∧ t.buflen = s.buflen ∧ t.params = s.params ∧ t.inputs = s.inputs ∧
      t.response = s.response ∧ t.readData = s.readData)

/-- SRESET, in every STATUS and with either START bit, and the external RESET leave the reset state
(70_reset_and_hazards.md R190, R191, 10_state.md R35): what the spec gives a value. That the parameters and what is still
pending stay is the model's choice (log 18). -/
def Obligations.ResetLeavesResetState : Prop :=
  ∀ (b : Bool) (s : State), ∃ t, exec (.sreset b) s = .next t ∧
    (∀ r, s.inputs = .reset :: r → step s = .next { t with inputs := r }) ∧
    t.phase = .idle ∧ t.phase.status = 0 ∧ t.err = 0 ∧ t.epos = 0 ∧ t.endpos = 0 ∧ t.buflen = 0 ∧
    t.cur = { base := 0, len := 0, pos := 0 } ∧ t.stk = [] ∧ t.tree = none ∧ t.vsum = none ∧ t.value = none ∧
    t.params = s.params

/-- The state the machine starts from has the reset values the spec gives (10_state.md R35). -/
def Obligations.ResetValues : Prop :=
  State.reset.phase = .idle ∧ State.reset.phase.status = 0 ∧ State.reset.err = 0 ∧ State.reset.epos = 0 ∧
    State.reset.endpos = 0 ∧ State.reset.buflen = 0 ∧ State.reset.cur = { base := 0, len := 0, pos := 0 } ∧
    State.reset.stk = [] ∧ State.reset.tree = none ∧ State.reset.vsum = none ∧ State.reset.value = none

/-- The sequencer takes a form only where it stands at one (41_packet_decoder.md R119): a literal header in HDR, a group in
LIT, an operator in HDR, OPH or NEXT; elsewhere the model refuses the form by name, which is the model's choice
(log 10). -/
def Obligations.FormsOutOfPlaceRefused : Prop :=
  ∀ s : State,
    (∀ ver, s.phase ≠ .hdr → exec (.lit ver) s = .refused .notEnabled) ∧
    (∀ d, s.phase ≠ .lit → exec (.grpC d) s = .refused .notEnabled ∧ exec (.grpF d) s = .refused .notEnabled) ∧
    (∀ k ver len cnt, s.phase ≠ .hdr → s.phase ≠ .oph → s.phase ≠ .next →
      exec (Instr.ofL0 k ver len) s = .refused .notEnabled ∧ exec (Instr.ofL1 k ver cnt) s = .refused .notEnabled) ∧
    (∀ k ver len cnt, s.phase = .oph → (s.ver ≠ ver ∨ s.tid ≠ k.typeId) →
      exec (Instr.ofL0 k ver len) s = .refused .notEnabled ∧ exec (Instr.ofL1 k ver cnt) s = .refused .notEnabled)

/-! ## The host -/

/-- LOAD (20_memory.md R51, 70_reset_and_hazards.md R199), accepted outside a run within MAXBITS: BUFLEN is the number of
bits, bit i of the buffer is bit i of what was loaded, and no other register changes. For i from the number of bits loaded
on, that bit i reads 0, and that the store is canonical, is the model's choice (log 1) and no rule of the spec. -/
def Obligations.LoadReplacesBuffer : Prop :=
  ∀ (s : State) (bits : List Bool) (r : List Input), s.inputs = .load bits :: r → s.busy = false →
    (∀ m, s.params.maxBits = some m → bits.length ≤ m) →
    ∃ mem, step s = .next { s with mem := mem, buflen := bits.length, inputs := r } ∧ Memory.wf mem = true ∧
      ∀ i, readBit mem i = bits.getD i false

/-- LOAD while BUSY, LOAD of more than MAXBITS bits, a write to a register the host may not write, and a CTRL write of 0
change nothing but that the action is over (70_reset_and_hazards.md R199). During a run nothing that arrives from outside
but a reset influences it (R190, R199, 60_exceptions.md R174): every other input, a START, a LOAD, a read, a write or a
cursor command word, leaves every field of the block as it is; a read fills only the model's `readData`. That a command
word arrives as an input at all is the model's choice (log 8). -/
def Obligations.RefusedHostActions : Prop :=
  ∀ (s : State) (r : List Input),
    (∀ bits, s.inputs = .load bits :: r → (s.busy = true ∨ ∃ m, s.params.maxBits = some m ∧ m < bits.length) →
      step s = .next { s with inputs := r }) ∧
    (∀ x, s.inputs = .writeReadOnly x :: r → step s = .next { s with inputs := r }) ∧
    (s.inputs = .control 0 :: r → step s = .next { s with inputs := r }) ∧
    (∀ i, s.inputs = i :: r → s.busy = true → i ≠ .pause → i ≠ .reset → (∀ v b, i = .control v →
        decodeControl v ≠ .ok (.sreset b)) →
      step s = .next { s with inputs := r } ∨ ∃ x, i = .read x ∧
        step s = .next { s with inputs := r, readData := hostRead s x })

/-- A register read (70_reset_and_hazards.md R199): the value the table gives, and no side effect but the data
returned, which the model keeps in a field of its own (log 21). -/
def Obligations.HostReadsRegisters : Prop :=
  ∀ (s : State) (x : HostReg) (r : List Input), s.inputs = .read x :: r →
    step s = .next { s with inputs := r, readData := hostRead s x } ∧
    hostRead s .status = .word s.phase.status.toNat ∧ hostRead s .ctrl = .word 0 ∧
    hostRead s .err = .word (16 * s.everrCode.toNat + s.derrCode.toNat) ∧
    hostRead s .epos = .word s.epos ∧ hostRead s .endpos = .word s.endpos ∧ hostRead s .buflen = .word s.buflen ∧
    hostRead s .tree = .tree s.tree ∧
    (s.phase ≠ .done → hostRead s .vsum = .noValue ∧ hostRead s .value = .noValue) ∧
    (s.everr ≠ none → hostRead s .value = .noValue) ∧
    (∀ v, s.phase = .done → s.vsum = some v → hostRead s .vsum = .word v) ∧
    (∀ v, s.phase = .done → s.everr = none → s.value = some v → hostRead s .value = .word v.toNat)

/-! ## Frames -/

/-- No instruction stores (20_memory.md R51): but for SRESET, which leaves no buffer, every bit and byte of the buffer and
its length read after an instruction as before it. That no instruction, SRESET included, writes the parameters or the
pending inputs is the model's choice: these fields are the model's own (logs 4, 5), and that SRESET keeps them is log 18
(DESIGN CHOICE), which neither R51 nor any other rule says. -/
def Obligations.InstructionsNeverStore : Prop :=
  ∀ (i : Instr) (s t : State), exec i s = .next t →
    t.params = s.params ∧ t.inputs = s.inputs ∧
    ((∀ b, i ≠ .sreset b) →
      t.buflen = s.buflen ∧ (∀ a, readByte t.mem a = readByte s.mem a) ∧ ∀ a, readBit t.mem a = readBit s.mem a)

/-- What a packet form or a group leaves alone: the model's own fields response, readData and free, which no rule names
(logs 3, 8, 21); the result registers, unless the run ends in this
step; in HDR the stack and the length registers; in OPH the header registers and ACC; in LIT the header and length
registers; in NEXT every working register. -/
def Obligations.SequencerFrame : Prop :=
  ∀ (i : Instr) (s t : State), exec i s = .next t →
    ((∃ bits, encode i = .header bits) ∨ ∃ bits, encode i = .group bits) →
    t.response = s.response ∧ t.readData = s.readData ∧ t.free = s.free ∧
    (t.phase ≠ .done → t.phase ≠ .fault →
      t.tree = s.tree ∧ t.derr = s.derr ∧ t.everr = s.everr ∧ t.epos = s.epos ∧ t.endpos = s.endpos ∧
      t.vsum = s.vsum ∧ t.value = s.value) ∧
    (s.phase = .hdr → t.stk = s.stk ∧ t.ltid = s.ltid ∧ t.tlen = s.tlen ∧ t.pcnt = s.pcnt ∧ t.grp = s.grp ∧
      t.cur.base = s.cur.base ∧ t.cur.len = s.cur.len) ∧
    (s.phase = .oph → t.ver = s.ver ∧ t.tid = s.tid ∧ t.grp = s.grp ∧ t.acc = s.acc) ∧
    (s.phase = .lit → t.ver = s.ver ∧ t.tid = s.tid ∧ t.ltid = s.ltid ∧ t.tlen = s.tlen ∧ t.pcnt = s.pcnt ∧
      t.cur.base = s.cur.base ∧ t.cur.len = s.cur.len) ∧
    (s.phase = .next → t.rdata = s.rdata ∧ t.ver = s.ver ∧ t.tid = s.tid ∧ t.ltid = s.ltid ∧ t.tlen = s.tlen ∧
      t.pcnt = s.pcnt ∧ t.grp = s.grp ∧ t.acc = s.acc)

/-! ## The buffer -/

/-- A read is big-endian in stream order (20_memory.md R41), and two adjacent reads agree with one of the joint width. -/
def Obligations.ReadsAreBigEndian : Prop :=
  (∀ (m : List Host.Cell) (a n : Nat),
    readNat m a n = ∑ i ∈ Finset.range n, (readBit m (a + i)).toNat * 2 ^ (n - 1 - i)) ∧
  (∀ (m : List Host.Cell) (a n k : Nat), readNat m a n * 2 ^ k + readNat m (a + n) k = readNat m a (n + k))

/-- Split (40_bitcursor.md R89 (a)) on the machine: RDB n then RDB k returns the two parts of what RDB (n + k) returns
from the same state, and both leave the same cursor. -/
def Obligations.ReadSplit : Prop :=
  ∀ (n k nk : CommandArg) (s : State), 1 ≤ n.toNat → 1 ≤ k.toNat → nk.toNat = n.toNat + k.toNat → nk.toNat ≤ 16 →
    CursorInBuffer s → nk.toNat ≤ s.cur.rem →
    ∃ t u w, exec (.rdb n) s = .next t ∧ exec (.rdb k) t = .next u ∧ exec (.rdb nk) s = .next w ∧
      u.cur = w.cur ∧ t.rdata.toNat * 2 ^ k.toNat + u.rdata.toNat = w.rdata.toNat

/-- Exhaustion (40_bitcursor.md R89 (e)): where EXH_SLACK is 1 and EXH answers true, any read of two bits or more
raises. -/
def Obligations.ExhaustedReadsRaise : Prop :=
  ∀ (n : CommandArg) (s : State), s.params.exhSlack = 1 → s.cur.exhausted s.params.exhSlack = true →
    2 ≤ n.toNat → n.toNat ≤ 16 → s.busy = true →
    ∃ t, exec (.rdb n) s = .next t ∧ t.phase = .fault ∧ t.derr = some .unexpectedEnd ∧ t.epos = s.cur.addr ∧
      t.cur = s.cur ∧ t.rdata = s.rdata

/-! ## Invariants and whole-machine rules -/

/-- Reset meets the invariant; that nothing is listed in the buffer's store is the model's choice (log 1). -/
def Obligations.ResetMeetsInvariant : Prop := Inv State.reset

/-- Every step keeps the invariant, whatever the host does: the buffer's store stays canonical, every cursor lies inside
its parent and the buffer, the stack stays within MAXDEPTH, and the result registers say what STATUS says. The
canonical form and the 0 of the bits from BUFLEN on are the model's choice (log 1). -/
def Obligations.StepKeepsInvariant : Prop := ∀ s t : State, Inv s → step s = .next t → Inv t

/-- The sequencer never gets stuck: from a state that meets the invariant a step with nothing pending neither faults nor
refuses (60_exceptions.md R176, 93_implementation_defined.md U12). -/
def Obligations.SequencerAlwaysSteps : Prop := ∀ s : State, Inv s → s.inputs = [] → StepsOn s

/-- SP never exceeds floor(BUFLEN / 18) and never exceeds MAXDEPTH (41_packet_decoder.md R129). -/
def Obligations.StackDepthBound : Prop :=
  ∀ s : State, Inv s → s.busy = true →
    s.sp ≤ s.buflen / 18 ∧ ∀ m, s.params.maxDepth = some m → s.sp ≤ m

/-- A never decreases over a sequencer step, and stays inside the buffer (10_state.md R16). -/
def Obligations.AddressNeverDecreases : Prop :=
  ∀ s t : State, Inv s → s.busy = true → s.inputs = [] → step s = .next t →
    s.cur.addr ≤ t.cur.addr ∧ t.cur.addr ≤ t.buflen

/-- What the end of a run says (70_reset_and_hazards.md R200): in the step that ends it, DONE has DERR 0, a tree, ENDPOS
within the buffer, VSUM and either VALUE or EVERR; FAULT has a code in 1, 2, 4, 5, EPOS within the buffer, no tree and
EVERR 0. -/
def Obligations.ResultsOfEndedRun : Prop :=
  ∀ s t : State, Inv s → s.busy = true → s.inputs = [] → step s = .next t →
    (t.phase = .done → t.derrCode = 0 ∧ t.endpos ≤ t.buflen ∧ t.endpos = t.cur.pos ∧
      ∃ p, t.tree = some p ∧ t.vsum = some p.countVersions ∧
        ((∃ v, p.evaluate = .ok v ∧ v < 2 ^ 64 ∧ t.everrCode = 0 ∧ t.value = some (BitVec.ofNat 64 v)) ∨
          (t.value = none ∧ (t.everrCode = 6 ∨ t.everrCode = 7)))) ∧
    (t.phase = .fault → t.derrCode ∈ [1, 2, 4, 5] ∧ t.epos ≤ t.buflen ∧ t.tree = none ∧ t.everrCode = 0)

/-- IDLE, DONE and FAULT are final until the host acts (41_packet_decoder.md R119, 70_reset_and_hazards.md R202); that a
step there answers the same state is the model's way to wait (log 20). -/
def Obligations.EndedRunsStay : Prop :=
  ∀ s : State, s.busy = false → s.inputs = [] → step s = .next s

/-- Every run ends, within BUFLEN + 1 sequencer steps (41_packet_decoder.md R128). -/
def Obligations.EveryRunEnds : Prop :=
  ∀ s : State, Started s → ∃ n t, n ≤ s.buflen + 1 ∧ Sys2Proof.core.run n s = .next t ∧ Ended t

/-- The step machine and the recursive definition agree (41_packet_decoder.md R127): from the start of a run, on every
buffer, the machine comes to an end, and it ends in DONE with `TREE = p`, `ENDPOS = e` if and only if the recursion
returns `p` leaving `c.POS = e`, in FAULT with kind `k` and address `a` if and only if the recursion raises `k` with
`a`. -/
def Obligations.StepMachineEqualsRecursion : Prop :=
  ∀ s : State, Started s → ∃ n t, Sys2Proof.core.run n s = .next t ∧ Ended t ∧
    (∀ p e, (t.phase = .done ∧ t.tree = some p ∧ t.endpos = e) ↔
      ∃ c, refRun s.params s.mem s.buflen = .ok p c ∧ c.pos = e) ∧
    (∀ k a, (t.phase = .fault ∧ t.derr = some k ∧ t.epos = a) ↔ refRun s.params s.mem s.buflen = .raised k a)

/-- A run depends on BUF and BUFLEN alone (10_state.md R36): two machines with the same parameters and the same buffer,
started from whatever state, show the same outcome after every number of steps. -/
def Obligations.RunDependsOnBufferAlone : Prop :=
  ∀ s s' a b : State, s.busy = false → s'.busy = false → s.inputs = [] → s'.inputs = [] →
    s.params = s'.params → s.mem = s'.mem → s.buflen = s'.buflen →
    exec .start s = .next a → exec .start s' = .next b →
    ∀ n t, Sys2Proof.core.run n a = .next t → ∃ t', Sys2Proof.core.run n b = .next t' ∧ SameOutcome t t'

/-- Padding is never read (41_packet_decoder.md R117, 93_implementation_defined.md, the note to U15): if a run ends in DONE
with ENDPOS e, a run on any buffer that agrees on the first e bits and is at least e long ends alike. -/
def Obligations.PaddingIndependence : Prop :=
  ∀ s s' t : State, ∀ n, Started s → Started s' → s.params = s'.params →
    Sys2Proof.core.run n s = .next t → t.phase = .done →
    t.endpos ≤ s'.buflen → (∀ i, i < t.endpos → readBit s'.mem i = readBit s.mem i) →
    ∃ n' t', Sys2Proof.core.run n' s' = .next t' ∧ t'.phase = .done ∧ t'.tree = t.tree ∧ t'.endpos = t.endpos ∧
      t'.vsum = t.vsum ∧ t'.value = t.value ∧ t'.everr = t.everr

/-! ## The folds -/

/-- `count_versions` is additive (42_evaluator.md R142), and a literal's is its version (R140). -/
def Obligations.VersionSumAdditive : Prop :=
  (∀ ver v, (Packet.literal ver v).countVersions = ver.toNat) ∧
  (∀ ver k children, (Packet.operator ver k (Packets.ofList children)).countVersions =
    ver.toNat + (children.map Packet.countVersions).sum)

/-- `count_versions` is at most 7 times the number of packets (42_evaluator.md R141). -/
def Obligations.VersionSumBound : Prop := ∀ p : Packet, p.countVersions ≤ 7 * p.size

/-- All children evaluate first, left to right, and the leftmost failing child decides (42_evaluator.md R144). -/
def Obligations.LeftmostChildErrorDecides : Prop :=
  ∀ (ver : Version) (k : Kind) (before after : List Packet) (p : Packet) (e : EvalFault),
    (∀ q ∈ before, ∃ v, q.evaluate = .ok v) → p.evaluate = .err e →
    (Packet.operator ver k (Packets.ofList (before ++ p :: after))).evaluate = .err e

/-- SUM (42_evaluator.md R145): the exact sum of one or more values below 2^64, or EvalOverflow exactly when that sum is
not below 2^64; EvalMalformed for no children. -/
def Obligations.SumOfChildren : Prop :=
  (∀ (ver : Version) (children : List Packet) (vs : List Nat), vs ≠ [] →
    children.map Packet.evaluate = vs.map EvalResult.ok →
    (Packet.operator ver .sum (Packets.ofList children)).evaluate =
      if vs.sum < 2 ^ 64 then .ok vs.sum else .err .evalOverflow) ∧
  (∀ ver : Version, (Packet.operator ver .sum (Packets.ofList [])).evaluate = .err .evalMalformed)

/-- PROD (42_evaluator.md R146): the exact product where every partial product from the left is below 2^64; EvalOverflow
where one is not. -/
def Obligations.ProductOfChildren : Prop :=
  ∀ (ver : Version) (children : List Packet) (vs : List Nat), vs ≠ [] →
    children.map Packet.evaluate = vs.map EvalResult.ok →
    ((∀ n, 1 ≤ n → (vs.take n).prod < 2 ^ 64) →
      (Packet.operator ver .product (Packets.ofList children)).evaluate = .ok vs.prod) ∧
    ((∃ n, 1 ≤ n ∧ 2 ^ 64 ≤ (vs.take n).prod) →
      (Packet.operator ver .product (Packets.ofList children)).evaluate = .err .evalOverflow)

/-- MIN and MAX (42_evaluator.md R147, R148): a child's value that is below, or above, none of the others. -/
def Obligations.MinMaxOfChildren : Prop :=
  ∀ (ver : Version) (children : List Packet) (vs : List Nat), vs ≠ [] →
    children.map Packet.evaluate = vs.map EvalResult.ok →
    (∃ a ∈ vs, (Packet.operator ver .min (Packets.ofList children)).evaluate = .ok a ∧ ∀ v ∈ vs, a ≤ v) ∧
    (∃ a ∈ vs, (Packet.operator ver .max (Packets.ofList children)).evaluate = .ok a ∧ ∀ v ∈ vs, v ≤ a)

/-- GT, LT and EQ (42_evaluator.md R149 to R151) compare the first child's value with the second's. -/
def Obligations.ComparisonsOfTwoChildren : Prop :=
  ∀ (ver : Version) (p q : Packet) (a b : Nat), p.evaluate = .ok a → q.evaluate = .ok b →
    (Packet.operator ver .greaterThan (Packets.ofList [p, q])).evaluate = .ok (if a > b then 1 else 0) ∧
    (Packet.operator ver .lessThan (Packets.ofList [p, q])).evaluate = .ok (if a < b then 1 else 0) ∧
    (Packet.operator ver .equalTo (Packets.ofList [p, q])).evaluate = .ok (if a = b then 1 else 0)

/-- An operator without children, and a comparison of other than two, are EvalMalformed once the children evaluate
(42_evaluator.md R152). -/
def Obligations.IllFormedOperatorsMalformed : Prop :=
  ∀ (ver : Version) (k : Kind) (children : List Packet),
    (∀ q ∈ children, ∃ v, q.evaluate = .ok v) →
    (children = [] ∨ ((k = .greaterThan ∨ k = .lessThan ∨ k = .equalTo) ∧ children.length ≠ 2)) →
    (Packet.operator ver k (Packets.ofList children)).evaluate = .err .evalMalformed

/-- On a well-formed tree `evaluate` never answers EvalMalformed (42_evaluator.md R152, R154), and every value it answers
is below 2^64 (R144). -/
def Obligations.WellFormedTreesEvaluate : Prop :=
  (∀ p : Packet, p.wellFormed = true → p.evaluate ≠ .err .evalMalformed) ∧
  (∀ (p : Packet) (v : Nat), p.evaluate = .ok v → v < 2 ^ 64)

/-- Literal round trip (30_encoding.md R69, 95_test_vectors.md section 3): a literal of any version with payload nibbles
ds, whose value is below 2^64, decodes to exactly that version and value, and consumes 6 + 5g bits, whatever bits
follow. -/
def Obligations.LiteralRoundTrip : Prop :=
  ∀ (p : Params) (ver : Version) (ds : List Nibble) (last : Nibble) (pad : List Bool) (fuel d : Nat),
    let value := (ds ++ [last]).foldl (fun (v : Nat) d => 16 * v + d.toNat) 0
    let bits := fieldBits ver ++ fieldBits literalTypeId ++ ds.flatMap (fun d => true :: fieldBits d) ++
      (false :: fieldBits last)
    value < 2 ^ 64 → ds.length + 2 ≤ fuel →
    refPacket p (packBits (bits ++ pad)) fuel (rootCursor (bits ++ pad).length) d =
      .ok (.literal ver (BitVec.ofNat 64 value))
        { base := 0, len := (bits ++ pad).length, pos := 6 + 5 * (ds.length + 1) }
end

