-- ==== Sys2Proof/Laws/Bits.lean ====
section
/-! SUPPORT. Laws of bit strings, fields and the kind map. -/

namespace Sys2Proof

@[simp] theorem bitsToNat_nil : bitsToNat [] = 0 := rfl

theorem bitsToNat_cons (b : Bool) (bs : List Bool) :
    bitsToNat (b :: bs) = b.toNat * 2 ^ bs.length + bitsToNat bs := rfl

theorem bitsToNat_append (xs ys : List Bool) :
    bitsToNat (xs ++ ys) = bitsToNat xs * 2 ^ ys.length + bitsToNat ys := by
  induction xs with
  | nil => simp
  | cons b bs ih => simp only [List.cons_append, bitsToNat_cons, ih, List.length_append, pow_add]; ring

theorem bitsToNat_lt (bs : List Bool) : bitsToNat bs < 2 ^ bs.length := by
  induction bs with
  | nil => simp
  | cons b bs ih =>
    have hb : b.toNat ≤ 1 := Bool.toNat_le b
    have : b.toNat * 2 ^ bs.length ≤ 1 * 2 ^ bs.length := Nat.mul_le_mul_right _ hb
    simp only [bitsToNat_cons, List.length_cons, pow_succ]; omega

@[simp] theorem natToBits_length (n v : Nat) : (natToBits n v).length = n := by
  induction n with
  | zero => rfl
  | succ n ih => simp [natToBits, ih]

theorem bitsToNat_natToBits (n v : Nat) : bitsToNat (natToBits n v) = v % 2 ^ n := by
  induction n with
  | zero => simp [natToBits, Nat.mod_one]
  | succ n ih =>
    rw [natToBits, bitsToNat_cons, natToBits_length, ih, Nat.testBit_eq_decide_div_mod_eq, Nat.mod_pow_succ]
    rcases Nat.mod_two_eq_zero_or_one (v / 2 ^ n) with h | h <;> simp [h]; omega

theorem natToBits_mod (n v : Nat) : natToBits n (v % 2 ^ n) = natToBits n v := by
  have key : ∀ k, k ≤ n → natToBits k (v % 2 ^ n) = natToBits k v := by
    intro k
    induction k with
    | zero => intro _; rfl
    | succ k ih =>
      intro hk
      rw [natToBits, natToBits, ih (by omega), Nat.testBit_mod_two_pow]
      simp [show k < n by omega]
  exact key n le_rfl

theorem natToBits_bitsToNat (bs : List Bool) : natToBits bs.length (bitsToNat bs) = bs := by
  induction bs with
  | nil => rfl
  | cons b bs ih =>
    have hlt := bitsToNat_lt bs
    rw [List.length_cons, natToBits, bitsToNat_cons]
    congr 1
    · rw [Nat.testBit_eq_decide_div_mod_eq, Nat.mul_comm, Nat.mul_add_div (Nat.two_pow_pos _),
        Nat.div_eq_of_lt hlt]
      cases b <;> simp
    · rw [← natToBits_mod, Nat.mul_comm, Nat.mul_add_mod, Nat.mod_eq_of_lt hlt, ih]

@[simp] theorem fieldBits_length {n : Nat} (v : BitVec n) : (fieldBits v).length = n := natToBits_length n _

theorem ofNat_bitsToNat_fieldBits {n : Nat} (v : BitVec n) : BitVec.ofNat n (bitsToNat (fieldBits v)) = v := by
  rw [fieldBits, bitsToNat_natToBits]
  apply BitVec.eq_of_toNat_eq
  simp

theorem fieldBits_ofNat (bs : List Bool) : fieldBits (BitVec.ofNat bs.length (bitsToNat bs)) = bs := by
  rw [fieldBits, BitVec.toNat_ofNat, natToBits_mod, natToBits_bitsToNat]

/-- A field written in front of anything reads back. -/
@[simp] theorem takeField_fieldBits {n : Nat} (v : BitVec n) (rest : List Bool) :
    takeField n (fieldBits v ++ rest) = some (v, rest) := by
  have h : (fieldBits v).length = n := fieldBits_length v
  rw [takeField, if_pos (by simp)]
  rw [List.take_left' h, List.drop_left' h, ofNat_bitsToNat_fieldBits]

/-- All a successful field read says. -/
theorem takeField_eq_some {n : Nat} {bits rest : List Bool} {v : BitVec n} (h : takeField n bits = some (v, rest)) :
    bits = fieldBits v ++ rest := by
  unfold takeField at h
  split at h
  · rename_i hn
    simp only [Option.some.injEq, Prod.mk.injEq] at h
    obtain ⟨rfl, rfl⟩ := h
    have hl : (bits.take n).length = n := by simp [hn]
    have := fieldBits_ofNat (bits.take n)
    rw [hl] at this
    rw [this, List.take_append_drop]
  · cases h

theorem takeField_of_le {n : Nat} {bits : List Bool} (h : n ≤ bits.length) :
    takeField n bits = some (BitVec.ofNat n (bitsToNat (bits.take n)), bits.drop n) := if_pos h

theorem takeField_of_lt {n : Nat} {bits : List Bool} (h : bits.length < n) : takeField n bits = none :=
  if_neg (by omega)

@[simp] theorem kindOf_typeId (k : Kind) : kindOf k.typeId = some k := by cases k <;> rfl

@[simp] theorem kindOf_literal : kindOf literalTypeId = none := rfl

theorem typeId_ne_literal (k : Kind) : k.typeId ≠ literalTypeId := by cases k <;> decide

theorem kindOf_eq_some {t : TypeId} {k : Kind} (h : kindOf t = some k) : t = k.typeId := by
  revert h; revert t; cases k <;> decide

theorem kindOf_eq_none {t : TypeId} (h : kindOf t = none) : t = literalTypeId := by
  revert h; revert t; decide

theorem encode_ofL0 (k : Kind) (ver : Version) (len : TotalLength) :
    encode (Instr.ofL0 k ver len) = encodeL0 k ver len := by cases k <;> rfl

theorem encode_ofL1 (k : Kind) (ver : Version) (cnt : PacketCount) :
    encode (Instr.ofL1 k ver cnt) = encodeL1 k ver cnt := by cases k <;> rfl

end Sys2Proof
end

