-- ==== Sys2Proof/Laws/Memory.lean ====
section
/-! SUPPORT. Laws of the bit buffer: the canonical form is kept by every write, a read after a write, and what LOAD
leaves. -/

namespace Sys2Proof.Machine

open Sys2Proof

theorem wfFrom_mono {lo hi : Nat} (h : lo ≤ hi) {m : List Host.Cell} (hm : Memory.wfFrom hi m = true) :
    Memory.wfFrom lo m = true := by
  cases m with
  | nil => rfl
  | cons c m => simp only [Memory.wfFrom, Bool.and_eq_true, decide_eq_true_eq] at *; exact ⟨⟨by omega, hm.1.2⟩, hm.2⟩

theorem cellOrNone_wf {lo x : Nat} (v : Byte) {m : List Host.Cell} (hx : lo ≤ x)
    (hm : Memory.wfFrom (x + 1) m = true) : Memory.wfFrom lo (cellOrNone x v ++ m) = true := by
  unfold cellOrNone
  split
  · exact wfFrom_mono (by omega) hm
  · rename_i hv; simp [Memory.wfFrom, hx, hv, hm]

theorem writeByte_wfFrom {m : List Host.Cell} (x : Nat) (v : Byte) :
    ∀ lo, lo ≤ x → Memory.wfFrom lo m = true → Memory.wfFrom lo (writeByte m x v) = true := by
  induction m with
  | nil => intro lo hx _; simpa [writeByte] using cellOrNone_wf (m := []) v hx rfl
  | cons c m ih =>
    obtain ⟨a, b⟩ := c
    intro lo hx hm
    have hm' := hm
    simp only [Memory.wfFrom, Bool.and_eq_true, decide_eq_true_eq] at hm
    obtain ⟨⟨hlo, hb⟩, hrest⟩ := hm
    unfold writeByte
    split
    · rename_i hlt
      apply cellOrNone_wf v hx
      simp [Memory.wfFrom, hb, hrest]; omega
    · split
      · rename_i _ heq; subst heq; exact cellOrNone_wf v hx hrest
      · simp only [Memory.wfFrom, Bool.and_eq_true, decide_eq_true_eq]
        exact ⟨⟨hlo, hb⟩, ih (a + 1) (by omega) hrest⟩

/-- A byte write keeps the canonical form. -/
theorem writeByte_wf {m : List Host.Cell} (x : Nat) (v : Byte) (h : Memory.wf m = true) :
    Memory.wf (writeByte m x v) = true := writeByte_wfFrom x v 0 (Nat.zero_le _) h

theorem writeBit_wf {m : List Host.Cell} (i : Nat) (v : Bool) (h : Memory.wf m = true) :
    Memory.wf (writeBit m i v) = true := writeByte_wf _ _ h

theorem writeBits_wf (bits : List Bool) : ∀ {m : List Host.Cell} (i : Nat), Memory.wf m = true →
    Memory.wf (writeBits m i bits) = true := by
  induction bits with
  | nil => intro m i h; exact h
  | cons b bs ih => intro m i h; exact ih (i + 1) (writeBit_wf i b h)

/-- What LOAD leaves is in canonical form. -/
theorem packBits_wf (bits : List Bool) : Memory.wf (packBits bits) = true := writeBits_wf bits 0 rfl

theorem readByte_of_lt {m : List Host.Cell} : ∀ {lo x : Nat}, Memory.wfFrom lo m = true → x < lo →
    readByte m x = unlistedByte := by
  induction m with
  | nil => intros; rfl
  | cons c m ih =>
    obtain ⟨a, b⟩ := c
    intro lo x hm hx
    simp only [Memory.wfFrom, Bool.and_eq_true, decide_eq_true_eq] at hm
    rw [readByte, if_neg (by omega)]
    exact ih hm.2 (by omega)

theorem readByte_cellOrNone_append (x : Nat) (v : Byte) (m : List Host.Cell) (y : Nat)
    (h : readByte m x = unlistedByte) :
    readByte (cellOrNone x v ++ m) y = if y = x then v else readByte m y := by
  unfold cellOrNone
  split
  · rename_i hv
    by_cases hy : y = x
    · subst hy; simp [h, hv]
    · simp [hy]
  · by_cases hy : y = x
    · subst hy; simp [readByte]
    · simp [readByte, hy, Ne.symm hy]

theorem readByte_writeByte_from {m : List Host.Cell} (x : Nat) (v : Byte) (y : Nat) :
    ∀ lo, Memory.wfFrom lo m = true →
      readByte (writeByte m x v) y = if y = x then v else readByte m y := by
  induction m with
  | nil => intro lo _; simpa [writeByte] using readByte_cellOrNone_append x v [] y rfl
  | cons c m ih =>
    obtain ⟨a, b⟩ := c
    intro lo hm
    have hm' := hm
    simp only [Memory.wfFrom, Bool.and_eq_true, decide_eq_true_eq] at hm
    obtain ⟨⟨hlo, hb⟩, hrest⟩ := hm
    unfold writeByte
    split
    · rename_i hlt
      apply readByte_cellOrNone_append
      exact readByte_of_lt (lo := a) (by simp [Memory.wfFrom, hb, hrest]) hlt
    · split
      · rename_i _ heq
        subst heq
        rw [readByte_cellOrNone_append x v m y (readByte_of_lt hrest (by omega))]
        by_cases hy : y = x
        · simp [hy]
        · simp [readByte, hy, Ne.symm hy]
      · rename_i h1 h2
        rw [readByte, readByte, ih (a + 1) hrest]
        by_cases hy : a = y
        · subst hy; simp [Ne.symm h2]
        · simp [hy]

/-- A byte read after a byte write. -/
theorem readByte_writeByte {m : List Host.Cell} (h : Memory.wf m = true) (x : Nat) (v : Byte) (y : Nat) :
    readByte (writeByte m x v) y = if y = x then v else readByte m y := readByte_writeByte_from x v y 0 h

theorem getLsbD_setBitOf (b : Byte) (k j : Nat) (v : Bool) (hk : k < 8) :
    (setBitOf b k v).getLsbD j = if j = k then v else b.getLsbD j := by
  unfold setBitOf
  by_cases hj : j = k
  · subst hj; cases v <;> simp [hk]
  · cases v
    · simp [hj, Ne.symm hj]
      intro hb; exact (BitVec.lt_of_getLsbD hb)
    · simp [hj, Ne.symm hj]

/-- A bit read after a bit write. -/
theorem readBit_writeBit {m : List Host.Cell} (h : Memory.wf m = true) (i : Nat) (v : Bool) (j : Nat) :
    readBit (writeBit m i v) j = if j = i then v else readBit m j := by
  unfold readBit writeBit
  rw [readByte_writeByte h]
  by_cases hb : j / 8 = i / 8
  · rw [if_pos hb, getLsbD_setBitOf _ _ _ _ (by unfold bitPlace; omega)]
    by_cases hj : j = i
    · subst hj; simp
    · have : bitPlace j ≠ bitPlace i := by unfold bitPlace; omega
      simp [hj, this, hb]
  · have : j ≠ i := fun e => hb (by rw [e])
    simp [hb, this]

theorem readBit_writeBits (bits : List Bool) : ∀ {m : List Host.Cell} (i j : Nat), Memory.wf m = true →
    readBit (writeBits m i bits) j = if i ≤ j ∧ j < i + bits.length then bits.getD (j - i) false else readBit m j := by
  induction bits with
  | nil => intro m i j _; simp [writeBits]; omega
  | cons b bs ih =>
    intro m i j h
    rw [writeBits, ih (i + 1) j (writeBit_wf i b h), readBit_writeBit h]
    by_cases hj : j = i
    · subst hj; simp
    · by_cases hlt : i + 1 ≤ j ∧ j < i + 1 + bs.length
      · rw [if_pos hlt, if_pos (by simp; omega)]
        obtain ⟨k, hk⟩ : ∃ k, j - i = k + 1 := ⟨j - i - 1, by omega⟩
        rw [hk, show j - (i + 1) = k by omega]; simp
      · rw [if_neg hlt, if_neg hj, if_neg (by rw [List.length_cons]; omega)]

theorem readBit_nil (i : Nat) : readBit [] i = false := by simp [readBit, readByte, unlistedByte]

/-- Bit `i` of a loaded buffer is bit `i` of what was loaded; beyond it every bit reads 0. -/
theorem readBit_packBits (bits : List Bool) (i : Nat) : readBit (packBits bits) i = bits.getD i false := by
  rw [packBits, readBit_writeBits bits 0 i rfl]
  by_cases h : i < bits.length
  · simp [h]
  · simp [h, readBit_nil]

/-! ## Reads -/

@[simp] theorem peek_length (m : List Host.Cell) (a : Nat) (n : Nat) : (peek m a n).length = n := by
  induction n generalizing a with
  | zero => rfl
  | succ n ih => simp [peek, ih]

theorem peek_append (m : List Host.Cell) (a : Nat) (n k : Nat) :
    peek m a (n + k) = peek m a n ++ peek m (a + n) k := by
  induction n generalizing a with
  | zero => simp [peek]
  | succ n ih =>
    rw [show n + 1 + k = (n + k) + 1 by omega, peek, peek, ih, List.cons_append, show a + 1 + n = a + (n + 1) by omega]

theorem take_peek (m : List Host.Cell) (a : Nat) {n k : Nat} (h : k ≤ n) : (peek m a n).take k = peek m a k := by
  obtain ⟨j, rfl⟩ := Nat.exists_eq_add_of_le h
  rw [peek_append, List.take_left' (peek_length ..)]

theorem drop_peek (m : List Host.Cell) (a : Nat) {n k : Nat} (h : k ≤ n) :
    (peek m a n).drop k = peek m (a + k) (n - k) := by
  obtain ⟨j, rfl⟩ := Nat.exists_eq_add_of_le h
  rw [peek_append, List.drop_left' (peek_length ..), Nat.add_sub_cancel_left]

/-- The big-endian value of `n` bits is the value of the bit string. -/
theorem bitsToNat_peek (m : List Host.Cell) (a : Nat) (n : Nat) : bitsToNat (peek m a n) = readNat m a n := by
  induction n with
  | zero => rfl
  | succ n ih =>
    rw [peek_append, bitsToNat_append, ih, readNat]
    simp [peek, bitsToNat_cons]; ring

theorem readNat_lt (m : List Host.Cell) (a : Nat) (n : Nat) : readNat m a n < 2 ^ n := by
  rw [← bitsToNat_peek]; simpa using bitsToNat_lt (peek m a n)

theorem readNat_congr {m m' : List Host.Cell} {a : Nat} : ∀ {n : Nat},
    (∀ i, a ≤ i → i < a + n → readBit m i = readBit m' i) → readNat m a n = readNat m' a n := by
  intro n
  induction n with
  | zero => intro _; rfl
  | succ n ih =>
    intro h
    rw [readNat, readNat, ih (fun i h1 h2 => h i h1 (by omega)), h (a + n) (by omega) (by omega)]

theorem takeField_peek (m : List Host.Cell) (a : Nat) {n k : Nat} (h : k ≤ n) :
    takeField k (peek m a n) = some (BitVec.ofNat k (readNat m a k), peek m (a + k) (n - k)) := by
  rw [takeField_of_le (by simpa using h), take_peek m a h, bitsToNat_peek, drop_peek m a h]

end Sys2Proof.Machine
end

