-- ==== Sys2Proof/Laws/State.lean ====
section
/-! SUPPORT. One lemma per field per update of the state: no later proof unfolds a record update. START's are those of the
fields the spec gives a value. -/

namespace Sys2Proof.Machine

open Sys2Proof

/-! ## advance -/

@[simp] theorem advance_params (n : Nat) (v : BitVec 16) (s : State) : (advance n v s).params = s.params := rfl
@[simp] theorem advance_mem (n : Nat) (v : BitVec 16) (s : State) : (advance n v s).mem = s.mem := rfl
@[simp] theorem advance_buflen (n : Nat) (v : BitVec 16) (s : State) : (advance n v s).buflen = s.buflen := rfl
@[simp] theorem advance_cur (n : Nat) (v : BitVec 16) (s : State) : (advance n v s).cur = { s.cur with pos := s.cur.pos + n } := rfl
@[simp] theorem advance_rdata (n : Nat) (v : BitVec 16) (s : State) : (advance n v s).rdata = v := rfl
@[simp] theorem advance_ver (n : Nat) (v : BitVec 16) (s : State) : (advance n v s).ver = s.ver := rfl
@[simp] theorem advance_tid (n : Nat) (v : BitVec 16) (s : State) : (advance n v s).tid = s.tid := rfl
@[simp] theorem advance_ltid (n : Nat) (v : BitVec 16) (s : State) : (advance n v s).ltid = s.ltid := rfl
@[simp] theorem advance_tlen (n : Nat) (v : BitVec 16) (s : State) : (advance n v s).tlen = s.tlen := rfl
@[simp] theorem advance_pcnt (n : Nat) (v : BitVec 16) (s : State) : (advance n v s).pcnt = s.pcnt := rfl
@[simp] theorem advance_grp (n : Nat) (v : BitVec 16) (s : State) : (advance n v s).grp = s.grp := rfl
@[simp] theorem advance_acc (n : Nat) (v : BitVec 16) (s : State) : (advance n v s).acc = s.acc := rfl
@[simp] theorem advance_stk (n : Nat) (v : BitVec 16) (s : State) : (advance n v s).stk = s.stk := rfl
@[simp] theorem advance_phase (n : Nat) (v : BitVec 16) (s : State) : (advance n v s).phase = s.phase := rfl
@[simp] theorem advance_tree (n : Nat) (v : BitVec 16) (s : State) : (advance n v s).tree = s.tree := rfl
@[simp] theorem advance_derr (n : Nat) (v : BitVec 16) (s : State) : (advance n v s).derr = s.derr := rfl
@[simp] theorem advance_everr (n : Nat) (v : BitVec 16) (s : State) : (advance n v s).everr = s.everr := rfl
@[simp] theorem advance_epos (n : Nat) (v : BitVec 16) (s : State) : (advance n v s).epos = s.epos := rfl
@[simp] theorem advance_endpos (n : Nat) (v : BitVec 16) (s : State) : (advance n v s).endpos = s.endpos := rfl
@[simp] theorem advance_vsum (n : Nat) (v : BitVec 16) (s : State) : (advance n v s).vsum = s.vsum := rfl
@[simp] theorem advance_value (n : Nat) (v : BitVec 16) (s : State) : (advance n v s).value = s.value := rfl
@[simp] theorem advance_inputs (n : Nat) (v : BitVec 16) (s : State) : (advance n v s).inputs = s.inputs := rfl
@[simp] theorem advance_response (n : Nat) (v : BitVec 16) (s : State) : (advance n v s).response = s.response := rfl
@[simp] theorem advance_readData (n : Nat) (v : BitVec 16) (s : State) : (advance n v s).readData = s.readData := rfl
@[simp] theorem advance_free (n : Nat) (v : BitVec 16) (s : State) : (advance n v s).free = s.free := rfl

/-! ## faultEntry -/

@[simp] theorem faultEntry_params (k : DecodeFault) (a : Nat) (s : State) : (faultEntry k a s).params = s.params := rfl
@[simp] theorem faultEntry_mem (k : DecodeFault) (a : Nat) (s : State) : (faultEntry k a s).mem = s.mem := rfl
@[simp] theorem faultEntry_buflen (k : DecodeFault) (a : Nat) (s : State) : (faultEntry k a s).buflen = s.buflen := rfl
@[simp] theorem faultEntry_cur (k : DecodeFault) (a : Nat) (s : State) : (faultEntry k a s).cur = s.cur := rfl
@[simp] theorem faultEntry_rdata (k : DecodeFault) (a : Nat) (s : State) : (faultEntry k a s).rdata = s.rdata := rfl
@[simp] theorem faultEntry_ver (k : DecodeFault) (a : Nat) (s : State) : (faultEntry k a s).ver = s.ver := rfl
@[simp] theorem faultEntry_tid (k : DecodeFault) (a : Nat) (s : State) : (faultEntry k a s).tid = s.tid := rfl
@[simp] theorem faultEntry_ltid (k : DecodeFault) (a : Nat) (s : State) : (faultEntry k a s).ltid = s.ltid := rfl
@[simp] theorem faultEntry_tlen (k : DecodeFault) (a : Nat) (s : State) : (faultEntry k a s).tlen = s.tlen := rfl
@[simp] theorem faultEntry_pcnt (k : DecodeFault) (a : Nat) (s : State) : (faultEntry k a s).pcnt = s.pcnt := rfl
@[simp] theorem faultEntry_grp (k : DecodeFault) (a : Nat) (s : State) : (faultEntry k a s).grp = s.grp := rfl
@[simp] theorem faultEntry_acc (k : DecodeFault) (a : Nat) (s : State) : (faultEntry k a s).acc = s.acc := rfl
@[simp] theorem faultEntry_stk (k : DecodeFault) (a : Nat) (s : State) : (faultEntry k a s).stk = s.stk := rfl
@[simp] theorem faultEntry_phase (k : DecodeFault) (a : Nat) (s : State) : (faultEntry k a s).phase = .fault := rfl
@[simp] theorem faultEntry_tree (k : DecodeFault) (a : Nat) (s : State) : (faultEntry k a s).tree = none := rfl
@[simp] theorem faultEntry_derr (k : DecodeFault) (a : Nat) (s : State) : (faultEntry k a s).derr = some k := rfl
@[simp] theorem faultEntry_everr (k : DecodeFault) (a : Nat) (s : State) : (faultEntry k a s).everr = s.everr := rfl
@[simp] theorem faultEntry_epos (k : DecodeFault) (a : Nat) (s : State) : (faultEntry k a s).epos = a := rfl
@[simp] theorem faultEntry_endpos (k : DecodeFault) (a : Nat) (s : State) : (faultEntry k a s).endpos = s.endpos := rfl
@[simp] theorem faultEntry_vsum (k : DecodeFault) (a : Nat) (s : State) : (faultEntry k a s).vsum = none := rfl
@[simp] theorem faultEntry_value (k : DecodeFault) (a : Nat) (s : State) : (faultEntry k a s).value = none := rfl
@[simp] theorem faultEntry_inputs (k : DecodeFault) (a : Nat) (s : State) : (faultEntry k a s).inputs = s.inputs := rfl
@[simp] theorem faultEntry_response (k : DecodeFault) (a : Nat) (s : State) : (faultEntry k a s).response = s.response := rfl
@[simp] theorem faultEntry_readData (k : DecodeFault) (a : Nat) (s : State) : (faultEntry k a s).readData = s.readData := rfl
@[simp] theorem faultEntry_free (k : DecodeFault) (a : Nat) (s : State) : (faultEntry k a s).free = s.free := rfl

/-! ## pushFrame -/

@[simp] theorem pushFrame_params (f : Frame) (s : State) : (pushFrame f s).params = s.params := rfl
@[simp] theorem pushFrame_mem (f : Frame) (s : State) : (pushFrame f s).mem = s.mem := rfl
@[simp] theorem pushFrame_buflen (f : Frame) (s : State) : (pushFrame f s).buflen = s.buflen := rfl
@[simp] theorem pushFrame_cur (f : Frame) (s : State) : (pushFrame f s).cur = s.cur := rfl
@[simp] theorem pushFrame_rdata (f : Frame) (s : State) : (pushFrame f s).rdata = s.rdata := rfl
@[simp] theorem pushFrame_ver (f : Frame) (s : State) : (pushFrame f s).ver = s.ver := rfl
@[simp] theorem pushFrame_tid (f : Frame) (s : State) : (pushFrame f s).tid = s.tid := rfl
@[simp] theorem pushFrame_ltid (f : Frame) (s : State) : (pushFrame f s).ltid = s.ltid := rfl
@[simp] theorem pushFrame_tlen (f : Frame) (s : State) : (pushFrame f s).tlen = s.tlen := rfl
@[simp] theorem pushFrame_pcnt (f : Frame) (s : State) : (pushFrame f s).pcnt = s.pcnt := rfl
@[simp] theorem pushFrame_grp (f : Frame) (s : State) : (pushFrame f s).grp = s.grp := rfl
@[simp] theorem pushFrame_acc (f : Frame) (s : State) : (pushFrame f s).acc = s.acc := rfl
@[simp] theorem pushFrame_stk (f : Frame) (s : State) : (pushFrame f s).stk = f :: s.stk := rfl
@[simp] theorem pushFrame_phase (f : Frame) (s : State) : (pushFrame f s).phase = .next := rfl
@[simp] theorem pushFrame_tree (f : Frame) (s : State) : (pushFrame f s).tree = s.tree := rfl
@[simp] theorem pushFrame_derr (f : Frame) (s : State) : (pushFrame f s).derr = s.derr := rfl
@[simp] theorem pushFrame_everr (f : Frame) (s : State) : (pushFrame f s).everr = s.everr := rfl
@[simp] theorem pushFrame_epos (f : Frame) (s : State) : (pushFrame f s).epos = s.epos := rfl
@[simp] theorem pushFrame_endpos (f : Frame) (s : State) : (pushFrame f s).endpos = s.endpos := rfl
@[simp] theorem pushFrame_vsum (f : Frame) (s : State) : (pushFrame f s).vsum = s.vsum := rfl
@[simp] theorem pushFrame_value (f : Frame) (s : State) : (pushFrame f s).value = s.value := rfl
@[simp] theorem pushFrame_inputs (f : Frame) (s : State) : (pushFrame f s).inputs = s.inputs := rfl
@[simp] theorem pushFrame_response (f : Frame) (s : State) : (pushFrame f s).response = s.response := rfl
@[simp] theorem pushFrame_readData (f : Frame) (s : State) : (pushFrame f s).readData = s.readData := rfl
@[simp] theorem pushFrame_free (f : Frame) (s : State) : (pushFrame f s).free = s.free := rfl

/-! ## finishRun -/

@[simp] theorem finishRun_params (p : Packet) (s : State) : (finishRun p s).params = s.params := rfl
@[simp] theorem finishRun_mem (p : Packet) (s : State) : (finishRun p s).mem = s.mem := rfl
@[simp] theorem finishRun_buflen (p : Packet) (s : State) : (finishRun p s).buflen = s.buflen := rfl
@[simp] theorem finishRun_cur (p : Packet) (s : State) : (finishRun p s).cur = s.cur := rfl
@[simp] theorem finishRun_rdata (p : Packet) (s : State) : (finishRun p s).rdata = s.rdata := rfl
@[simp] theorem finishRun_ver (p : Packet) (s : State) : (finishRun p s).ver = s.ver := rfl
@[simp] theorem finishRun_tid (p : Packet) (s : State) : (finishRun p s).tid = s.tid := rfl
@[simp] theorem finishRun_ltid (p : Packet) (s : State) : (finishRun p s).ltid = s.ltid := rfl
@[simp] theorem finishRun_tlen (p : Packet) (s : State) : (finishRun p s).tlen = s.tlen := rfl
@[simp] theorem finishRun_pcnt (p : Packet) (s : State) : (finishRun p s).pcnt = s.pcnt := rfl
@[simp] theorem finishRun_grp (p : Packet) (s : State) : (finishRun p s).grp = s.grp := rfl
@[simp] theorem finishRun_acc (p : Packet) (s : State) : (finishRun p s).acc = s.acc := rfl
@[simp] theorem finishRun_stk (p : Packet) (s : State) : (finishRun p s).stk = s.stk := rfl
@[simp] theorem finishRun_phase (p : Packet) (s : State) : (finishRun p s).phase = .done := rfl
@[simp] theorem finishRun_tree (p : Packet) (s : State) : (finishRun p s).tree = some p := rfl
@[simp] theorem finishRun_derr (p : Packet) (s : State) : (finishRun p s).derr = s.derr := rfl
@[simp] theorem finishRun_everr (p : Packet) (s : State) : (finishRun p s).everr = p.evaluate.toFault := rfl
@[simp] theorem finishRun_epos (p : Packet) (s : State) : (finishRun p s).epos = s.epos := rfl
@[simp] theorem finishRun_endpos (p : Packet) (s : State) : (finishRun p s).endpos = s.cur.pos := rfl
@[simp] theorem finishRun_vsum (p : Packet) (s : State) : (finishRun p s).vsum = some p.countVersions := rfl
@[simp] theorem finishRun_value (p : Packet) (s : State) : (finishRun p s).value = p.evaluate.toValue := rfl
@[simp] theorem finishRun_inputs (p : Packet) (s : State) : (finishRun p s).inputs = s.inputs := rfl
@[simp] theorem finishRun_response (p : Packet) (s : State) : (finishRun p s).response = s.response := rfl
@[simp] theorem finishRun_readData (p : Packet) (s : State) : (finishRun p s).readData = s.readData := rfl
@[simp] theorem finishRun_free (p : Packet) (s : State) : (finishRun p s).free = s.free := rfl

/-! ## resetState -/

@[simp] theorem resetState_params (s : State) : (resetState s).params = s.params := rfl
@[simp] theorem resetState_mem (s : State) : (resetState s).mem = State.reset.mem := rfl
@[simp] theorem resetState_buflen (s : State) : (resetState s).buflen = State.reset.buflen := rfl
@[simp] theorem resetState_cur (s : State) : (resetState s).cur = State.reset.cur := rfl
@[simp] theorem resetState_rdata (s : State) : (resetState s).rdata = State.reset.rdata := rfl
@[simp] theorem resetState_ver (s : State) : (resetState s).ver = State.reset.ver := rfl
@[simp] theorem resetState_tid (s : State) : (resetState s).tid = State.reset.tid := rfl
@[simp] theorem resetState_ltid (s : State) : (resetState s).ltid = State.reset.ltid := rfl
@[simp] theorem resetState_tlen (s : State) : (resetState s).tlen = State.reset.tlen := rfl
@[simp] theorem resetState_pcnt (s : State) : (resetState s).pcnt = State.reset.pcnt := rfl
@[simp] theorem resetState_grp (s : State) : (resetState s).grp = State.reset.grp := rfl
@[simp] theorem resetState_acc (s : State) : (resetState s).acc = State.reset.acc := rfl
@[simp] theorem resetState_stk (s : State) : (resetState s).stk = State.reset.stk := rfl
@[simp] theorem resetState_phase (s : State) : (resetState s).phase = State.reset.phase := rfl
@[simp] theorem resetState_tree (s : State) : (resetState s).tree = State.reset.tree := rfl
@[simp] theorem resetState_derr (s : State) : (resetState s).derr = State.reset.derr := rfl
@[simp] theorem resetState_everr (s : State) : (resetState s).everr = State.reset.everr := rfl
@[simp] theorem resetState_epos (s : State) : (resetState s).epos = State.reset.epos := rfl
@[simp] theorem resetState_endpos (s : State) : (resetState s).endpos = State.reset.endpos := rfl
@[simp] theorem resetState_vsum (s : State) : (resetState s).vsum = State.reset.vsum := rfl
@[simp] theorem resetState_value (s : State) : (resetState s).value = State.reset.value := rfl
@[simp] theorem resetState_inputs (s : State) : (resetState s).inputs = s.inputs := rfl
@[simp] theorem resetState_response (s : State) : (resetState s).response = State.reset.response := rfl
@[simp] theorem resetState_readData (s : State) : (resetState s).readData = State.reset.readData := rfl
@[simp] theorem resetState_free (s : State) : (resetState s).free = s.free := rfl

/-! ## startState -/

@[simp] theorem startState_params (s : State) : (startState s).params = s.params := rfl
@[simp] theorem startState_mem (s : State) : (startState s).mem = s.mem := rfl
@[simp] theorem startState_buflen (s : State) : (startState s).buflen = s.buflen := rfl
@[simp] theorem startState_cur (s : State) : (startState s).cur = rootCursor s.buflen := rfl
@[simp] theorem startState_stk (s : State) : (startState s).stk = [] := rfl
@[simp] theorem startState_phase (s : State) : (startState s).phase = .hdr := rfl
@[simp] theorem startState_tree (s : State) : (startState s).tree = none := rfl
@[simp] theorem startState_derr (s : State) : (startState s).derr = none := rfl
@[simp] theorem startState_everr (s : State) : (startState s).everr = none := rfl
@[simp] theorem startState_epos (s : State) : (startState s).epos = 0 := rfl
@[simp] theorem startState_endpos (s : State) : (startState s).endpos = 0 := rfl
@[simp] theorem startState_vsum (s : State) : (startState s).vsum = none := rfl
@[simp] theorem startState_value (s : State) : (startState s).value = none := rfl
@[simp] theorem startState_inputs (s : State) : (startState s).inputs = s.inputs := rfl
@[simp] theorem startState_response (s : State) : (startState s).response = s.response := rfl
@[simp] theorem startState_readData (s : State) : (startState s).readData = s.readData := rfl
@[simp] theorem startState_free (s : State) : (startState s).free = s.free + 8 := rfl

/-! ## setCur -/

@[simp] theorem setCur_params (v : Cursor) (s : State) : (setCur v s).params = s.params := rfl
@[simp] theorem setCur_mem (v : Cursor) (s : State) : (setCur v s).mem = s.mem := rfl
@[simp] theorem setCur_buflen (v : Cursor) (s : State) : (setCur v s).buflen = s.buflen := rfl
@[simp] theorem setCur_cur (v : Cursor) (s : State) : (setCur v s).cur = v := rfl
@[simp] theorem setCur_rdata (v : Cursor) (s : State) : (setCur v s).rdata = s.rdata := rfl
@[simp] theorem setCur_ver (v : Cursor) (s : State) : (setCur v s).ver = s.ver := rfl
@[simp] theorem setCur_tid (v : Cursor) (s : State) : (setCur v s).tid = s.tid := rfl
@[simp] theorem setCur_ltid (v : Cursor) (s : State) : (setCur v s).ltid = s.ltid := rfl
@[simp] theorem setCur_tlen (v : Cursor) (s : State) : (setCur v s).tlen = s.tlen := rfl
@[simp] theorem setCur_pcnt (v : Cursor) (s : State) : (setCur v s).pcnt = s.pcnt := rfl
@[simp] theorem setCur_grp (v : Cursor) (s : State) : (setCur v s).grp = s.grp := rfl
@[simp] theorem setCur_acc (v : Cursor) (s : State) : (setCur v s).acc = s.acc := rfl
@[simp] theorem setCur_stk (v : Cursor) (s : State) : (setCur v s).stk = s.stk := rfl
@[simp] theorem setCur_phase (v : Cursor) (s : State) : (setCur v s).phase = s.phase := rfl
@[simp] theorem setCur_tree (v : Cursor) (s : State) : (setCur v s).tree = s.tree := rfl
@[simp] theorem setCur_derr (v : Cursor) (s : State) : (setCur v s).derr = s.derr := rfl
@[simp] theorem setCur_everr (v : Cursor) (s : State) : (setCur v s).everr = s.everr := rfl
@[simp] theorem setCur_epos (v : Cursor) (s : State) : (setCur v s).epos = s.epos := rfl
@[simp] theorem setCur_endpos (v : Cursor) (s : State) : (setCur v s).endpos = s.endpos := rfl
@[simp] theorem setCur_vsum (v : Cursor) (s : State) : (setCur v s).vsum = s.vsum := rfl
@[simp] theorem setCur_value (v : Cursor) (s : State) : (setCur v s).value = s.value := rfl
@[simp] theorem setCur_inputs (v : Cursor) (s : State) : (setCur v s).inputs = s.inputs := rfl
@[simp] theorem setCur_response (v : Cursor) (s : State) : (setCur v s).response = s.response := rfl
@[simp] theorem setCur_readData (v : Cursor) (s : State) : (setCur v s).readData = s.readData := rfl
@[simp] theorem setCur_free (v : Cursor) (s : State) : (setCur v s).free = s.free := rfl

/-! ## setVer -/

@[simp] theorem setVer_params (v : Version) (s : State) : (setVer v s).params = s.params := rfl
@[simp] theorem setVer_mem (v : Version) (s : State) : (setVer v s).mem = s.mem := rfl
@[simp] theorem setVer_buflen (v : Version) (s : State) : (setVer v s).buflen = s.buflen := rfl
@[simp] theorem setVer_cur (v : Version) (s : State) : (setVer v s).cur = s.cur := rfl
@[simp] theorem setVer_rdata (v : Version) (s : State) : (setVer v s).rdata = s.rdata := rfl
@[simp] theorem setVer_ver (v : Version) (s : State) : (setVer v s).ver = v := rfl
@[simp] theorem setVer_tid (v : Version) (s : State) : (setVer v s).tid = s.tid := rfl
@[simp] theorem setVer_ltid (v : Version) (s : State) : (setVer v s).ltid = s.ltid := rfl
@[simp] theorem setVer_tlen (v : Version) (s : State) : (setVer v s).tlen = s.tlen := rfl
@[simp] theorem setVer_pcnt (v : Version) (s : State) : (setVer v s).pcnt = s.pcnt := rfl
@[simp] theorem setVer_grp (v : Version) (s : State) : (setVer v s).grp = s.grp := rfl
@[simp] theorem setVer_acc (v : Version) (s : State) : (setVer v s).acc = s.acc := rfl
@[simp] theorem setVer_stk (v : Version) (s : State) : (setVer v s).stk = s.stk := rfl
@[simp] theorem setVer_phase (v : Version) (s : State) : (setVer v s).phase = s.phase := rfl
@[simp] theorem setVer_tree (v : Version) (s : State) : (setVer v s).tree = s.tree := rfl
@[simp] theorem setVer_derr (v : Version) (s : State) : (setVer v s).derr = s.derr := rfl
@[simp] theorem setVer_everr (v : Version) (s : State) : (setVer v s).everr = s.everr := rfl
@[simp] theorem setVer_epos (v : Version) (s : State) : (setVer v s).epos = s.epos := rfl
@[simp] theorem setVer_endpos (v : Version) (s : State) : (setVer v s).endpos = s.endpos := rfl
@[simp] theorem setVer_vsum (v : Version) (s : State) : (setVer v s).vsum = s.vsum := rfl
@[simp] theorem setVer_value (v : Version) (s : State) : (setVer v s).value = s.value := rfl
@[simp] theorem setVer_inputs (v : Version) (s : State) : (setVer v s).inputs = s.inputs := rfl
@[simp] theorem setVer_response (v : Version) (s : State) : (setVer v s).response = s.response := rfl
@[simp] theorem setVer_readData (v : Version) (s : State) : (setVer v s).readData = s.readData := rfl
@[simp] theorem setVer_free (v : Version) (s : State) : (setVer v s).free = s.free := rfl

/-! ## setTid -/

@[simp] theorem setTid_params (v : TypeId) (s : State) : (setTid v s).params = s.params := rfl
@[simp] theorem setTid_mem (v : TypeId) (s : State) : (setTid v s).mem = s.mem := rfl
@[simp] theorem setTid_buflen (v : TypeId) (s : State) : (setTid v s).buflen = s.buflen := rfl
@[simp] theorem setTid_cur (v : TypeId) (s : State) : (setTid v s).cur = s.cur := rfl
@[simp] theorem setTid_rdata (v : TypeId) (s : State) : (setTid v s).rdata = s.rdata := rfl
@[simp] theorem setTid_ver (v : TypeId) (s : State) : (setTid v s).ver = s.ver := rfl
@[simp] theorem setTid_tid (v : TypeId) (s : State) : (setTid v s).tid = v := rfl
@[simp] theorem setTid_ltid (v : TypeId) (s : State) : (setTid v s).ltid = s.ltid := rfl
@[simp] theorem setTid_tlen (v : TypeId) (s : State) : (setTid v s).tlen = s.tlen := rfl
@[simp] theorem setTid_pcnt (v : TypeId) (s : State) : (setTid v s).pcnt = s.pcnt := rfl
@[simp] theorem setTid_grp (v : TypeId) (s : State) : (setTid v s).grp = s.grp := rfl
@[simp] theorem setTid_acc (v : TypeId) (s : State) : (setTid v s).acc = s.acc := rfl
@[simp] theorem setTid_stk (v : TypeId) (s : State) : (setTid v s).stk = s.stk := rfl
@[simp] theorem setTid_phase (v : TypeId) (s : State) : (setTid v s).phase = s.phase := rfl
@[simp] theorem setTid_tree (v : TypeId) (s : State) : (setTid v s).tree = s.tree := rfl
@[simp] theorem setTid_derr (v : TypeId) (s : State) : (setTid v s).derr = s.derr := rfl
@[simp] theorem setTid_everr (v : TypeId) (s : State) : (setTid v s).everr = s.everr := rfl
@[simp] theorem setTid_epos (v : TypeId) (s : State) : (setTid v s).epos = s.epos := rfl
@[simp] theorem setTid_endpos (v : TypeId) (s : State) : (setTid v s).endpos = s.endpos := rfl
@[simp] theorem setTid_vsum (v : TypeId) (s : State) : (setTid v s).vsum = s.vsum := rfl
@[simp] theorem setTid_value (v : TypeId) (s : State) : (setTid v s).value = s.value := rfl
@[simp] theorem setTid_inputs (v : TypeId) (s : State) : (setTid v s).inputs = s.inputs := rfl
@[simp] theorem setTid_response (v : TypeId) (s : State) : (setTid v s).response = s.response := rfl
@[simp] theorem setTid_readData (v : TypeId) (s : State) : (setTid v s).readData = s.readData := rfl
@[simp] theorem setTid_free (v : TypeId) (s : State) : (setTid v s).free = s.free := rfl

/-! ## setLtid -/

@[simp] theorem setLtid_params (v : BitVec 1) (s : State) : (setLtid v s).params = s.params := rfl
@[simp] theorem setLtid_mem (v : BitVec 1) (s : State) : (setLtid v s).mem = s.mem := rfl
@[simp] theorem setLtid_buflen (v : BitVec 1) (s : State) : (setLtid v s).buflen = s.buflen := rfl
@[simp] theorem setLtid_cur (v : BitVec 1) (s : State) : (setLtid v s).cur = s.cur := rfl
@[simp] theorem setLtid_rdata (v : BitVec 1) (s : State) : (setLtid v s).rdata = s.rdata := rfl
@[simp] theorem setLtid_ver (v : BitVec 1) (s : State) : (setLtid v s).ver = s.ver := rfl
@[simp] theorem setLtid_tid (v : BitVec 1) (s : State) : (setLtid v s).tid = s.tid := rfl
@[simp] theorem setLtid_ltid (v : BitVec 1) (s : State) : (setLtid v s).ltid = v := rfl
@[simp] theorem setLtid_tlen (v : BitVec 1) (s : State) : (setLtid v s).tlen = s.tlen := rfl
@[simp] theorem setLtid_pcnt (v : BitVec 1) (s : State) : (setLtid v s).pcnt = s.pcnt := rfl
@[simp] theorem setLtid_grp (v : BitVec 1) (s : State) : (setLtid v s).grp = s.grp := rfl
@[simp] theorem setLtid_acc (v : BitVec 1) (s : State) : (setLtid v s).acc = s.acc := rfl
@[simp] theorem setLtid_stk (v : BitVec 1) (s : State) : (setLtid v s).stk = s.stk := rfl
@[simp] theorem setLtid_phase (v : BitVec 1) (s : State) : (setLtid v s).phase = s.phase := rfl
@[simp] theorem setLtid_tree (v : BitVec 1) (s : State) : (setLtid v s).tree = s.tree := rfl
@[simp] theorem setLtid_derr (v : BitVec 1) (s : State) : (setLtid v s).derr = s.derr := rfl
@[simp] theorem setLtid_everr (v : BitVec 1) (s : State) : (setLtid v s).everr = s.everr := rfl
@[simp] theorem setLtid_epos (v : BitVec 1) (s : State) : (setLtid v s).epos = s.epos := rfl
@[simp] theorem setLtid_endpos (v : BitVec 1) (s : State) : (setLtid v s).endpos = s.endpos := rfl
@[simp] theorem setLtid_vsum (v : BitVec 1) (s : State) : (setLtid v s).vsum = s.vsum := rfl
@[simp] theorem setLtid_value (v : BitVec 1) (s : State) : (setLtid v s).value = s.value := rfl
@[simp] theorem setLtid_inputs (v : BitVec 1) (s : State) : (setLtid v s).inputs = s.inputs := rfl
@[simp] theorem setLtid_response (v : BitVec 1) (s : State) : (setLtid v s).response = s.response := rfl
@[simp] theorem setLtid_readData (v : BitVec 1) (s : State) : (setLtid v s).readData = s.readData := rfl
@[simp] theorem setLtid_free (v : BitVec 1) (s : State) : (setLtid v s).free = s.free := rfl

/-! ## setTlen -/

@[simp] theorem setTlen_params (v : TotalLength) (s : State) : (setTlen v s).params = s.params := rfl
@[simp] theorem setTlen_mem (v : TotalLength) (s : State) : (setTlen v s).mem = s.mem := rfl
@[simp] theorem setTlen_buflen (v : TotalLength) (s : State) : (setTlen v s).buflen = s.buflen := rfl
@[simp] theorem setTlen_cur (v : TotalLength) (s : State) : (setTlen v s).cur = s.cur := rfl
@[simp] theorem setTlen_rdata (v : TotalLength) (s : State) : (setTlen v s).rdata = s.rdata := rfl
@[simp] theorem setTlen_ver (v : TotalLength) (s : State) : (setTlen v s).ver = s.ver := rfl
@[simp] theorem setTlen_tid (v : TotalLength) (s : State) : (setTlen v s).tid = s.tid := rfl
@[simp] theorem setTlen_ltid (v : TotalLength) (s : State) : (setTlen v s).ltid = s.ltid := rfl
@[simp] theorem setTlen_tlen (v : TotalLength) (s : State) : (setTlen v s).tlen = v := rfl
@[simp] theorem setTlen_pcnt (v : TotalLength) (s : State) : (setTlen v s).pcnt = s.pcnt := rfl
@[simp] theorem setTlen_grp (v : TotalLength) (s : State) : (setTlen v s).grp = s.grp := rfl
@[simp] theorem setTlen_acc (v : TotalLength) (s : State) : (setTlen v s).acc = s.acc := rfl
@[simp] theorem setTlen_stk (v : TotalLength) (s : State) : (setTlen v s).stk = s.stk := rfl
@[simp] theorem setTlen_phase (v : TotalLength) (s : State) : (setTlen v s).phase = s.phase := rfl
@[simp] theorem setTlen_tree (v : TotalLength) (s : State) : (setTlen v s).tree = s.tree := rfl
@[simp] theorem setTlen_derr (v : TotalLength) (s : State) : (setTlen v s).derr = s.derr := rfl
@[simp] theorem setTlen_everr (v : TotalLength) (s : State) : (setTlen v s).everr = s.everr := rfl
@[simp] theorem setTlen_epos (v : TotalLength) (s : State) : (setTlen v s).epos = s.epos := rfl
@[simp] theorem setTlen_endpos (v : TotalLength) (s : State) : (setTlen v s).endpos = s.endpos := rfl
@[simp] theorem setTlen_vsum (v : TotalLength) (s : State) : (setTlen v s).vsum = s.vsum := rfl
@[simp] theorem setTlen_value (v : TotalLength) (s : State) : (setTlen v s).value = s.value := rfl
@[simp] theorem setTlen_inputs (v : TotalLength) (s : State) : (setTlen v s).inputs = s.inputs := rfl
@[simp] theorem setTlen_response (v : TotalLength) (s : State) : (setTlen v s).response = s.response := rfl
@[simp] theorem setTlen_readData (v : TotalLength) (s : State) : (setTlen v s).readData = s.readData := rfl
@[simp] theorem setTlen_free (v : TotalLength) (s : State) : (setTlen v s).free = s.free := rfl

/-! ## setPcnt -/

@[simp] theorem setPcnt_params (v : PacketCount) (s : State) : (setPcnt v s).params = s.params := rfl
@[simp] theorem setPcnt_mem (v : PacketCount) (s : State) : (setPcnt v s).mem = s.mem := rfl
@[simp] theorem setPcnt_buflen (v : PacketCount) (s : State) : (setPcnt v s).buflen = s.buflen := rfl
@[simp] theorem setPcnt_cur (v : PacketCount) (s : State) : (setPcnt v s).cur = s.cur := rfl
@[simp] theorem setPcnt_rdata (v : PacketCount) (s : State) : (setPcnt v s).rdata = s.rdata := rfl
@[simp] theorem setPcnt_ver (v : PacketCount) (s : State) : (setPcnt v s).ver = s.ver := rfl
@[simp] theorem setPcnt_tid (v : PacketCount) (s : State) : (setPcnt v s).tid = s.tid := rfl
@[simp] theorem setPcnt_ltid (v : PacketCount) (s : State) : (setPcnt v s).ltid = s.ltid := rfl
@[simp] theorem setPcnt_tlen (v : PacketCount) (s : State) : (setPcnt v s).tlen = s.tlen := rfl
@[simp] theorem setPcnt_pcnt (v : PacketCount) (s : State) : (setPcnt v s).pcnt = v := rfl
@[simp] theorem setPcnt_grp (v : PacketCount) (s : State) : (setPcnt v s).grp = s.grp := rfl
@[simp] theorem setPcnt_acc (v : PacketCount) (s : State) : (setPcnt v s).acc = s.acc := rfl
@[simp] theorem setPcnt_stk (v : PacketCount) (s : State) : (setPcnt v s).stk = s.stk := rfl
@[simp] theorem setPcnt_phase (v : PacketCount) (s : State) : (setPcnt v s).phase = s.phase := rfl
@[simp] theorem setPcnt_tree (v : PacketCount) (s : State) : (setPcnt v s).tree = s.tree := rfl
@[simp] theorem setPcnt_derr (v : PacketCount) (s : State) : (setPcnt v s).derr = s.derr := rfl
@[simp] theorem setPcnt_everr (v : PacketCount) (s : State) : (setPcnt v s).everr = s.everr := rfl
@[simp] theorem setPcnt_epos (v : PacketCount) (s : State) : (setPcnt v s).epos = s.epos := rfl
@[simp] theorem setPcnt_endpos (v : PacketCount) (s : State) : (setPcnt v s).endpos = s.endpos := rfl
@[simp] theorem setPcnt_vsum (v : PacketCount) (s : State) : (setPcnt v s).vsum = s.vsum := rfl
@[simp] theorem setPcnt_value (v : PacketCount) (s : State) : (setPcnt v s).value = s.value := rfl
@[simp] theorem setPcnt_inputs (v : PacketCount) (s : State) : (setPcnt v s).inputs = s.inputs := rfl
@[simp] theorem setPcnt_response (v : PacketCount) (s : State) : (setPcnt v s).response = s.response := rfl
@[simp] theorem setPcnt_readData (v : PacketCount) (s : State) : (setPcnt v s).readData = s.readData := rfl
@[simp] theorem setPcnt_free (v : PacketCount) (s : State) : (setPcnt v s).free = s.free := rfl

/-! ## setGrp -/

@[simp] theorem setGrp_params (v : BitVec 5) (s : State) : (setGrp v s).params = s.params := rfl
@[simp] theorem setGrp_mem (v : BitVec 5) (s : State) : (setGrp v s).mem = s.mem := rfl
@[simp] theorem setGrp_buflen (v : BitVec 5) (s : State) : (setGrp v s).buflen = s.buflen := rfl
@[simp] theorem setGrp_cur (v : BitVec 5) (s : State) : (setGrp v s).cur = s.cur := rfl
@[simp] theorem setGrp_rdata (v : BitVec 5) (s : State) : (setGrp v s).rdata = s.rdata := rfl
@[simp] theorem setGrp_ver (v : BitVec 5) (s : State) : (setGrp v s).ver = s.ver := rfl
@[simp] theorem setGrp_tid (v : BitVec 5) (s : State) : (setGrp v s).tid = s.tid := rfl
@[simp] theorem setGrp_ltid (v : BitVec 5) (s : State) : (setGrp v s).ltid = s.ltid := rfl
@[simp] theorem setGrp_tlen (v : BitVec 5) (s : State) : (setGrp v s).tlen = s.tlen := rfl
@[simp] theorem setGrp_pcnt (v : BitVec 5) (s : State) : (setGrp v s).pcnt = s.pcnt := rfl
@[simp] theorem setGrp_grp (v : BitVec 5) (s : State) : (setGrp v s).grp = v := rfl
@[simp] theorem setGrp_acc (v : BitVec 5) (s : State) : (setGrp v s).acc = s.acc := rfl
@[simp] theorem setGrp_stk (v : BitVec 5) (s : State) : (setGrp v s).stk = s.stk := rfl
@[simp] theorem setGrp_phase (v : BitVec 5) (s : State) : (setGrp v s).phase = s.phase := rfl
@[simp] theorem setGrp_tree (v : BitVec 5) (s : State) : (setGrp v s).tree = s.tree := rfl
@[simp] theorem setGrp_derr (v : BitVec 5) (s : State) : (setGrp v s).derr = s.derr := rfl
@[simp] theorem setGrp_everr (v : BitVec 5) (s : State) : (setGrp v s).everr = s.everr := rfl
@[simp] theorem setGrp_epos (v : BitVec 5) (s : State) : (setGrp v s).epos = s.epos := rfl
@[simp] theorem setGrp_endpos (v : BitVec 5) (s : State) : (setGrp v s).endpos = s.endpos := rfl
@[simp] theorem setGrp_vsum (v : BitVec 5) (s : State) : (setGrp v s).vsum = s.vsum := rfl
@[simp] theorem setGrp_value (v : BitVec 5) (s : State) : (setGrp v s).value = s.value := rfl
@[simp] theorem setGrp_inputs (v : BitVec 5) (s : State) : (setGrp v s).inputs = s.inputs := rfl
@[simp] theorem setGrp_response (v : BitVec 5) (s : State) : (setGrp v s).response = s.response := rfl
@[simp] theorem setGrp_readData (v : BitVec 5) (s : State) : (setGrp v s).readData = s.readData := rfl
@[simp] theorem setGrp_free (v : BitVec 5) (s : State) : (setGrp v s).free = s.free := rfl

/-! ## setAcc -/

@[simp] theorem setAcc_params (v : Value) (s : State) : (setAcc v s).params = s.params := rfl
@[simp] theorem setAcc_mem (v : Value) (s : State) : (setAcc v s).mem = s.mem := rfl
@[simp] theorem setAcc_buflen (v : Value) (s : State) : (setAcc v s).buflen = s.buflen := rfl
@[simp] theorem setAcc_cur (v : Value) (s : State) : (setAcc v s).cur = s.cur := rfl
@[simp] theorem setAcc_rdata (v : Value) (s : State) : (setAcc v s).rdata = s.rdata := rfl
@[simp] theorem setAcc_ver (v : Value) (s : State) : (setAcc v s).ver = s.ver := rfl
@[simp] theorem setAcc_tid (v : Value) (s : State) : (setAcc v s).tid = s.tid := rfl
@[simp] theorem setAcc_ltid (v : Value) (s : State) : (setAcc v s).ltid = s.ltid := rfl
@[simp] theorem setAcc_tlen (v : Value) (s : State) : (setAcc v s).tlen = s.tlen := rfl
@[simp] theorem setAcc_pcnt (v : Value) (s : State) : (setAcc v s).pcnt = s.pcnt := rfl
@[simp] theorem setAcc_grp (v : Value) (s : State) : (setAcc v s).grp = s.grp := rfl
@[simp] theorem setAcc_acc (v : Value) (s : State) : (setAcc v s).acc = v := rfl
@[simp] theorem setAcc_stk (v : Value) (s : State) : (setAcc v s).stk = s.stk := rfl
@[simp] theorem setAcc_phase (v : Value) (s : State) : (setAcc v s).phase = s.phase := rfl
@[simp] theorem setAcc_tree (v : Value) (s : State) : (setAcc v s).tree = s.tree := rfl
@[simp] theorem setAcc_derr (v : Value) (s : State) : (setAcc v s).derr = s.derr := rfl
@[simp] theorem setAcc_everr (v : Value) (s : State) : (setAcc v s).everr = s.everr := rfl
@[simp] theorem setAcc_epos (v : Value) (s : State) : (setAcc v s).epos = s.epos := rfl
@[simp] theorem setAcc_endpos (v : Value) (s : State) : (setAcc v s).endpos = s.endpos := rfl
@[simp] theorem setAcc_vsum (v : Value) (s : State) : (setAcc v s).vsum = s.vsum := rfl
@[simp] theorem setAcc_value (v : Value) (s : State) : (setAcc v s).value = s.value := rfl
@[simp] theorem setAcc_inputs (v : Value) (s : State) : (setAcc v s).inputs = s.inputs := rfl
@[simp] theorem setAcc_response (v : Value) (s : State) : (setAcc v s).response = s.response := rfl
@[simp] theorem setAcc_readData (v : Value) (s : State) : (setAcc v s).readData = s.readData := rfl
@[simp] theorem setAcc_free (v : Value) (s : State) : (setAcc v s).free = s.free := rfl

/-! ## setStk -/

@[simp] theorem setStk_params (v : List Frame) (s : State) : (setStk v s).params = s.params := rfl
@[simp] theorem setStk_mem (v : List Frame) (s : State) : (setStk v s).mem = s.mem := rfl
@[simp] theorem setStk_buflen (v : List Frame) (s : State) : (setStk v s).buflen = s.buflen := rfl
@[simp] theorem setStk_cur (v : List Frame) (s : State) : (setStk v s).cur = s.cur := rfl
@[simp] theorem setStk_rdata (v : List Frame) (s : State) : (setStk v s).rdata = s.rdata := rfl
@[simp] theorem setStk_ver (v : List Frame) (s : State) : (setStk v s).ver = s.ver := rfl
@[simp] theorem setStk_tid (v : List Frame) (s : State) : (setStk v s).tid = s.tid := rfl
@[simp] theorem setStk_ltid (v : List Frame) (s : State) : (setStk v s).ltid = s.ltid := rfl
@[simp] theorem setStk_tlen (v : List Frame) (s : State) : (setStk v s).tlen = s.tlen := rfl
@[simp] theorem setStk_pcnt (v : List Frame) (s : State) : (setStk v s).pcnt = s.pcnt := rfl
@[simp] theorem setStk_grp (v : List Frame) (s : State) : (setStk v s).grp = s.grp := rfl
@[simp] theorem setStk_acc (v : List Frame) (s : State) : (setStk v s).acc = s.acc := rfl
@[simp] theorem setStk_stk (v : List Frame) (s : State) : (setStk v s).stk = v := rfl
@[simp] theorem setStk_phase (v : List Frame) (s : State) : (setStk v s).phase = s.phase := rfl
@[simp] theorem setStk_tree (v : List Frame) (s : State) : (setStk v s).tree = s.tree := rfl
@[simp] theorem setStk_derr (v : List Frame) (s : State) : (setStk v s).derr = s.derr := rfl
@[simp] theorem setStk_everr (v : List Frame) (s : State) : (setStk v s).everr = s.everr := rfl
@[simp] theorem setStk_epos (v : List Frame) (s : State) : (setStk v s).epos = s.epos := rfl
@[simp] theorem setStk_endpos (v : List Frame) (s : State) : (setStk v s).endpos = s.endpos := rfl
@[simp] theorem setStk_vsum (v : List Frame) (s : State) : (setStk v s).vsum = s.vsum := rfl
@[simp] theorem setStk_value (v : List Frame) (s : State) : (setStk v s).value = s.value := rfl
@[simp] theorem setStk_inputs (v : List Frame) (s : State) : (setStk v s).inputs = s.inputs := rfl
@[simp] theorem setStk_response (v : List Frame) (s : State) : (setStk v s).response = s.response := rfl
@[simp] theorem setStk_readData (v : List Frame) (s : State) : (setStk v s).readData = s.readData := rfl
@[simp] theorem setStk_free (v : List Frame) (s : State) : (setStk v s).free = s.free := rfl

/-! ## setPhase -/

@[simp] theorem setPhase_params (v : Phase) (s : State) : (setPhase v s).params = s.params := rfl
@[simp] theorem setPhase_mem (v : Phase) (s : State) : (setPhase v s).mem = s.mem := rfl
@[simp] theorem setPhase_buflen (v : Phase) (s : State) : (setPhase v s).buflen = s.buflen := rfl
@[simp] theorem setPhase_cur (v : Phase) (s : State) : (setPhase v s).cur = s.cur := rfl
@[simp] theorem setPhase_rdata (v : Phase) (s : State) : (setPhase v s).rdata = s.rdata := rfl
@[simp] theorem setPhase_ver (v : Phase) (s : State) : (setPhase v s).ver = s.ver := rfl
@[simp] theorem setPhase_tid (v : Phase) (s : State) : (setPhase v s).tid = s.tid := rfl
@[simp] theorem setPhase_ltid (v : Phase) (s : State) : (setPhase v s).ltid = s.ltid := rfl
@[simp] theorem setPhase_tlen (v : Phase) (s : State) : (setPhase v s).tlen = s.tlen := rfl
@[simp] theorem setPhase_pcnt (v : Phase) (s : State) : (setPhase v s).pcnt = s.pcnt := rfl
@[simp] theorem setPhase_grp (v : Phase) (s : State) : (setPhase v s).grp = s.grp := rfl
@[simp] theorem setPhase_acc (v : Phase) (s : State) : (setPhase v s).acc = s.acc := rfl
@[simp] theorem setPhase_stk (v : Phase) (s : State) : (setPhase v s).stk = s.stk := rfl
@[simp] theorem setPhase_phase (v : Phase) (s : State) : (setPhase v s).phase = v := rfl
@[simp] theorem setPhase_tree (v : Phase) (s : State) : (setPhase v s).tree = s.tree := rfl
@[simp] theorem setPhase_derr (v : Phase) (s : State) : (setPhase v s).derr = s.derr := rfl
@[simp] theorem setPhase_everr (v : Phase) (s : State) : (setPhase v s).everr = s.everr := rfl
@[simp] theorem setPhase_epos (v : Phase) (s : State) : (setPhase v s).epos = s.epos := rfl
@[simp] theorem setPhase_endpos (v : Phase) (s : State) : (setPhase v s).endpos = s.endpos := rfl
@[simp] theorem setPhase_vsum (v : Phase) (s : State) : (setPhase v s).vsum = s.vsum := rfl
@[simp] theorem setPhase_value (v : Phase) (s : State) : (setPhase v s).value = s.value := rfl
@[simp] theorem setPhase_inputs (v : Phase) (s : State) : (setPhase v s).inputs = s.inputs := rfl
@[simp] theorem setPhase_response (v : Phase) (s : State) : (setPhase v s).response = s.response := rfl
@[simp] theorem setPhase_readData (v : Phase) (s : State) : (setPhase v s).readData = s.readData := rfl
@[simp] theorem setPhase_free (v : Phase) (s : State) : (setPhase v s).free = s.free := rfl

/-! ## setResponse -/

@[simp] theorem setResponse_params (v : Response) (s : State) : (setResponse v s).params = s.params := rfl
@[simp] theorem setResponse_mem (v : Response) (s : State) : (setResponse v s).mem = s.mem := rfl
@[simp] theorem setResponse_buflen (v : Response) (s : State) : (setResponse v s).buflen = s.buflen := rfl
@[simp] theorem setResponse_cur (v : Response) (s : State) : (setResponse v s).cur = s.cur := rfl
@[simp] theorem setResponse_rdata (v : Response) (s : State) : (setResponse v s).rdata = s.rdata := rfl
@[simp] theorem setResponse_ver (v : Response) (s : State) : (setResponse v s).ver = s.ver := rfl
@[simp] theorem setResponse_tid (v : Response) (s : State) : (setResponse v s).tid = s.tid := rfl
@[simp] theorem setResponse_ltid (v : Response) (s : State) : (setResponse v s).ltid = s.ltid := rfl
@[simp] theorem setResponse_tlen (v : Response) (s : State) : (setResponse v s).tlen = s.tlen := rfl
@[simp] theorem setResponse_pcnt (v : Response) (s : State) : (setResponse v s).pcnt = s.pcnt := rfl
@[simp] theorem setResponse_grp (v : Response) (s : State) : (setResponse v s).grp = s.grp := rfl
@[simp] theorem setResponse_acc (v : Response) (s : State) : (setResponse v s).acc = s.acc := rfl
@[simp] theorem setResponse_stk (v : Response) (s : State) : (setResponse v s).stk = s.stk := rfl
@[simp] theorem setResponse_phase (v : Response) (s : State) : (setResponse v s).phase = s.phase := rfl
@[simp] theorem setResponse_tree (v : Response) (s : State) : (setResponse v s).tree = s.tree := rfl
@[simp] theorem setResponse_derr (v : Response) (s : State) : (setResponse v s).derr = s.derr := rfl
@[simp] theorem setResponse_everr (v : Response) (s : State) : (setResponse v s).everr = s.everr := rfl
@[simp] theorem setResponse_epos (v : Response) (s : State) : (setResponse v s).epos = s.epos := rfl
@[simp] theorem setResponse_endpos (v : Response) (s : State) : (setResponse v s).endpos = s.endpos := rfl
@[simp] theorem setResponse_vsum (v : Response) (s : State) : (setResponse v s).vsum = s.vsum := rfl
@[simp] theorem setResponse_value (v : Response) (s : State) : (setResponse v s).value = s.value := rfl
@[simp] theorem setResponse_inputs (v : Response) (s : State) : (setResponse v s).inputs = s.inputs := rfl
@[simp] theorem setResponse_response (v : Response) (s : State) : (setResponse v s).response = some v := rfl
@[simp] theorem setResponse_readData (v : Response) (s : State) : (setResponse v s).readData = s.readData := rfl
@[simp] theorem setResponse_free (v : Response) (s : State) : (setResponse v s).free = s.free := rfl

/-! ## setReadData -/

@[simp] theorem setReadData_params (v : ReadData) (s : State) : (setReadData v s).params = s.params := rfl
@[simp] theorem setReadData_mem (v : ReadData) (s : State) : (setReadData v s).mem = s.mem := rfl
@[simp] theorem setReadData_buflen (v : ReadData) (s : State) : (setReadData v s).buflen = s.buflen := rfl
@[simp] theorem setReadData_cur (v : ReadData) (s : State) : (setReadData v s).cur = s.cur := rfl
@[simp] theorem setReadData_rdata (v : ReadData) (s : State) : (setReadData v s).rdata = s.rdata := rfl
@[simp] theorem setReadData_ver (v : ReadData) (s : State) : (setReadData v s).ver = s.ver := rfl
@[simp] theorem setReadData_tid (v : ReadData) (s : State) : (setReadData v s).tid = s.tid := rfl
@[simp] theorem setReadData_ltid (v : ReadData) (s : State) : (setReadData v s).ltid = s.ltid := rfl
@[simp] theorem setReadData_tlen (v : ReadData) (s : State) : (setReadData v s).tlen = s.tlen := rfl
@[simp] theorem setReadData_pcnt (v : ReadData) (s : State) : (setReadData v s).pcnt = s.pcnt := rfl
@[simp] theorem setReadData_grp (v : ReadData) (s : State) : (setReadData v s).grp = s.grp := rfl
@[simp] theorem setReadData_acc (v : ReadData) (s : State) : (setReadData v s).acc = s.acc := rfl
@[simp] theorem setReadData_stk (v : ReadData) (s : State) : (setReadData v s).stk = s.stk := rfl
@[simp] theorem setReadData_phase (v : ReadData) (s : State) : (setReadData v s).phase = s.phase := rfl
@[simp] theorem setReadData_tree (v : ReadData) (s : State) : (setReadData v s).tree = s.tree := rfl
@[simp] theorem setReadData_derr (v : ReadData) (s : State) : (setReadData v s).derr = s.derr := rfl
@[simp] theorem setReadData_everr (v : ReadData) (s : State) : (setReadData v s).everr = s.everr := rfl
@[simp] theorem setReadData_epos (v : ReadData) (s : State) : (setReadData v s).epos = s.epos := rfl
@[simp] theorem setReadData_endpos (v : ReadData) (s : State) : (setReadData v s).endpos = s.endpos := rfl
@[simp] theorem setReadData_vsum (v : ReadData) (s : State) : (setReadData v s).vsum = s.vsum := rfl
@[simp] theorem setReadData_value (v : ReadData) (s : State) : (setReadData v s).value = s.value := rfl
@[simp] theorem setReadData_inputs (v : ReadData) (s : State) : (setReadData v s).inputs = s.inputs := rfl
@[simp] theorem setReadData_response (v : ReadData) (s : State) : (setReadData v s).response = s.response := rfl
@[simp] theorem setReadData_readData (v : ReadData) (s : State) : (setReadData v s).readData = v := rfl
@[simp] theorem setReadData_free (v : ReadData) (s : State) : (setReadData v s).free = s.free := rfl

/-! ## setInputs -/

@[simp] theorem setInputs_params (v : List Input) (s : State) : (setInputs v s).params = s.params := rfl
@[simp] theorem setInputs_mem (v : List Input) (s : State) : (setInputs v s).mem = s.mem := rfl
@[simp] theorem setInputs_buflen (v : List Input) (s : State) : (setInputs v s).buflen = s.buflen := rfl
@[simp] theorem setInputs_cur (v : List Input) (s : State) : (setInputs v s).cur = s.cur := rfl
@[simp] theorem setInputs_rdata (v : List Input) (s : State) : (setInputs v s).rdata = s.rdata := rfl
@[simp] theorem setInputs_ver (v : List Input) (s : State) : (setInputs v s).ver = s.ver := rfl
@[simp] theorem setInputs_tid (v : List Input) (s : State) : (setInputs v s).tid = s.tid := rfl
@[simp] theorem setInputs_ltid (v : List Input) (s : State) : (setInputs v s).ltid = s.ltid := rfl
@[simp] theorem setInputs_tlen (v : List Input) (s : State) : (setInputs v s).tlen = s.tlen := rfl
@[simp] theorem setInputs_pcnt (v : List Input) (s : State) : (setInputs v s).pcnt = s.pcnt := rfl
@[simp] theorem setInputs_grp (v : List Input) (s : State) : (setInputs v s).grp = s.grp := rfl
@[simp] theorem setInputs_acc (v : List Input) (s : State) : (setInputs v s).acc = s.acc := rfl
@[simp] theorem setInputs_stk (v : List Input) (s : State) : (setInputs v s).stk = s.stk := rfl
@[simp] theorem setInputs_phase (v : List Input) (s : State) : (setInputs v s).phase = s.phase := rfl
@[simp] theorem setInputs_tree (v : List Input) (s : State) : (setInputs v s).tree = s.tree := rfl
@[simp] theorem setInputs_derr (v : List Input) (s : State) : (setInputs v s).derr = s.derr := rfl
@[simp] theorem setInputs_everr (v : List Input) (s : State) : (setInputs v s).everr = s.everr := rfl
@[simp] theorem setInputs_epos (v : List Input) (s : State) : (setInputs v s).epos = s.epos := rfl
@[simp] theorem setInputs_endpos (v : List Input) (s : State) : (setInputs v s).endpos = s.endpos := rfl
@[simp] theorem setInputs_vsum (v : List Input) (s : State) : (setInputs v s).vsum = s.vsum := rfl
@[simp] theorem setInputs_value (v : List Input) (s : State) : (setInputs v s).value = s.value := rfl
@[simp] theorem setInputs_inputs (v : List Input) (s : State) : (setInputs v s).inputs = v := rfl
@[simp] theorem setInputs_response (v : List Input) (s : State) : (setInputs v s).response = s.response := rfl
@[simp] theorem setInputs_readData (v : List Input) (s : State) : (setInputs v s).readData = s.readData := rfl
@[simp] theorem setInputs_free (v : List Input) (s : State) : (setInputs v s).free = s.free := rfl

/-! ## setBuffer -/

@[simp] theorem setBuffer_params (v : List Bool) (s : State) : (setBuffer v s).params = s.params := rfl
@[simp] theorem setBuffer_mem (v : List Bool) (s : State) : (setBuffer v s).mem = packBits v := rfl
@[simp] theorem setBuffer_buflen (v : List Bool) (s : State) : (setBuffer v s).buflen = v.length := rfl
@[simp] theorem setBuffer_cur (v : List Bool) (s : State) : (setBuffer v s).cur = s.cur := rfl
@[simp] theorem setBuffer_rdata (v : List Bool) (s : State) : (setBuffer v s).rdata = s.rdata := rfl
@[simp] theorem setBuffer_ver (v : List Bool) (s : State) : (setBuffer v s).ver = s.ver := rfl
@[simp] theorem setBuffer_tid (v : List Bool) (s : State) : (setBuffer v s).tid = s.tid := rfl
@[simp] theorem setBuffer_ltid (v : List Bool) (s : State) : (setBuffer v s).ltid = s.ltid := rfl
@[simp] theorem setBuffer_tlen (v : List Bool) (s : State) : (setBuffer v s).tlen = s.tlen := rfl
@[simp] theorem setBuffer_pcnt (v : List Bool) (s : State) : (setBuffer v s).pcnt = s.pcnt := rfl
@[simp] theorem setBuffer_grp (v : List Bool) (s : State) : (setBuffer v s).grp = s.grp := rfl
@[simp] theorem setBuffer_acc (v : List Bool) (s : State) : (setBuffer v s).acc = s.acc := rfl
@[simp] theorem setBuffer_stk (v : List Bool) (s : State) : (setBuffer v s).stk = s.stk := rfl
@[simp] theorem setBuffer_phase (v : List Bool) (s : State) : (setBuffer v s).phase = s.phase := rfl
@[simp] theorem setBuffer_tree (v : List Bool) (s : State) : (setBuffer v s).tree = s.tree := rfl
@[simp] theorem setBuffer_derr (v : List Bool) (s : State) : (setBuffer v s).derr = s.derr := rfl
@[simp] theorem setBuffer_everr (v : List Bool) (s : State) : (setBuffer v s).everr = s.everr := rfl
@[simp] theorem setBuffer_epos (v : List Bool) (s : State) : (setBuffer v s).epos = s.epos := rfl
@[simp] theorem setBuffer_endpos (v : List Bool) (s : State) : (setBuffer v s).endpos = s.endpos := rfl
@[simp] theorem setBuffer_vsum (v : List Bool) (s : State) : (setBuffer v s).vsum = s.vsum := rfl
@[simp] theorem setBuffer_value (v : List Bool) (s : State) : (setBuffer v s).value = s.value := rfl
@[simp] theorem setBuffer_inputs (v : List Bool) (s : State) : (setBuffer v s).inputs = s.inputs := rfl
@[simp] theorem setBuffer_response (v : List Bool) (s : State) : (setBuffer v s).response = s.response := rfl
@[simp] theorem setBuffer_readData (v : List Bool) (s : State) : (setBuffer v s).readData = s.readData := rfl
@[simp] theorem setBuffer_free (v : List Bool) (s : State) : (setBuffer v s).free = s.free := rfl

end Sys2Proof.Machine
end

