-- ==== Sys2Proof/Laws/Ops.lean ====
section
/-! SUPPORT. For each shared operation, once, what it can do. -/

namespace Sys2Proof.Machine

open Sys2Proof

/-! ## Cursors -/

@[simp] theorem Cursor.rem_mk (b l p : Nat) : Cursor.rem { base := b, len := l, pos := p } = l - p := rfl
@[simp] theorem Cursor.addr_mk (b l p : Nat) : Cursor.addr { base := b, len := l, pos := p } = b + p := rfl

theorem Cursor.subView_eq_some {c v : Cursor} {k : Nat} (h : c.subView k = some v) :
    k ≤ c.rem ∧ v = { base := c.addr, len := k, pos := 0 } := by
  unfold Cursor.subView at h
  split at h
  · cases h
  · exact ⟨by omega, (Option.some.inj h).symm⟩

theorem Cursor.subView_of_le {c : Cursor} {k : Nat} (h : k ≤ c.rem) :
    c.subView k = some { base := c.addr, len := k, pos := 0 } := if_neg (by omega)

theorem Cursor.subView_of_lt {c : Cursor} {k : Nat} (h : c.rem < k) : c.subView k = none := if_pos h

theorem Cursor.skip_eq_some {c d : Cursor} {k : Nat} (h : c.skip k = some d) :
    k ≤ c.rem ∧ d = { c with pos := c.pos + k } := by
  unfold Cursor.skip at h
  split at h
  · cases h
  · exact ⟨by omega, (Option.some.inj h).symm⟩

theorem Cursor.skip_of_le {c : Cursor} {k : Nat} (h : k ≤ c.rem) : c.skip k = some { c with pos := c.pos + k } :=
  if_neg (by omega)

theorem Cursor.skip_of_lt {c : Cursor} {k : Nat} (h : c.rem < k) : c.skip k = none := if_pos h

/-! ## Conditions -/

theorem busy_iff {s : State} :
    s.busy = true ↔ s.phase = .hdr ∨ s.phase = .oph ∨ s.phase = .lit ∨ s.phase = .next := by
  unfold State.busy; cases s.phase <;> decide

theorem not_busy_iff {s : State} : s.busy = false ↔ s.phase = .idle ∨ s.phase = .done ∨ s.phase = .fault := by
  unfold State.busy; cases s.phase <;> decide

theorem stackFull_eq_true {s : State} : s.stackFull = true ↔ s.params.maxDepth = some s.sp := by
  unfold State.stackFull
  cases s.params.maxDepth <;> simp [eq_comm]

theorem stackFull_eq_false {s : State} : s.stackFull = false ↔ ∀ m, s.params.maxDepth = some m → s.sp ≠ m := by
  unfold State.stackFull
  cases s.params.maxDepth <;> simp

@[simp] theorem continues_groupOf (b : Bool) (d : Nibble) : continues (groupOf b d) = b := by
  revert b d; decide

@[simp] theorem payload_groupOf (b : Bool) (d : Nibble) : payload (groupOf b d) = d := by
  revert b d; decide

theorem groupOf_eta (g : BitVec 5) : groupOf (continues g) (payload g) = g := by
  revert g; decide

theorem accFull_eq_false {acc : Value} : accFull acc = false ↔ acc.toNat < 2 ^ 60 := by
  unfold accFull
  rw [decide_eq_false_iff_not, not_not, ← BitVec.toNat_inj]
  rw [BitVec.extractLsb'_toNat, Nat.shiftRight_eq_div_pow, show (0 : BitVec 4).toNat = 0 from rfl]
  have := acc.isLt
  omega

/-- With no overflow a group takes ACC to `16 * ACC + d`. -/
theorem toNat_accumulate {acc : Value} {d : Nibble} (h : accFull acc = false) :
    (accumulate acc d).toNat = 16 * acc.toNat + d.toNat := by
  have h := accFull_eq_false.1 h
  have hd := d.isLt
  unfold accumulate
  rw [BitVec.toNat_or, BitVec.toNat_shiftLeft, BitVec.toNat_setWidth, Nat.shiftLeft_eq,
    Nat.mod_eq_of_lt (by omega : acc.toNat * 2 ^ 4 < 2 ^ 64), Nat.mod_eq_of_lt (by omega : d.toNat < 2 ^ 64),
    ← Nat.shiftLeft_eq, ← Nat.shiftLeft_add_eq_or_of_lt hd, Nat.shiftLeft_eq]
  omega

/-! ## consume -/

theorem consume_of_le {n : Nat} {v : BitVec n} {s : State} {k : State → Result} (h : n ≤ s.cur.rem) :
    consume v s k = k (advance n (v.setWidth 16) s) := if_neg (by omega)

theorem consume_of_lt {n : Nat} {v : BitVec n} {s : State} {k : State → Result} (h : s.cur.rem < n) :
    consume v s k = raise .unexpectedEnd s.cur.addr s := if_pos h

/-- All a field read can do: raise at A, or advance and go on. -/
theorem consume_next {n : Nat} {v : BitVec n} {s t : State} {k : State → Result} (h : consume v s k = .next t) :
    (s.cur.rem < n ∧ t = faultEntry .unexpectedEnd s.cur.addr s) ∨
      (n ≤ s.cur.rem ∧ k (advance n (v.setWidth 16) s) = .next t) := by
  unfold consume at h
  split at h
  · rename_i hlt; exact .inl ⟨hlt, by simpa [raise] using h.symm⟩
  · exact .inr ⟨by omega, h⟩

theorem raise_next {k : DecodeFault} {a : Nat} {s t : State} (h : raise k a s = .next t) : t = faultEntry k a s := by
  simpa [raise] using h.symm

/-! ## complete -/

/-! What a completion leaves alone, field by field. -/

@[simp] theorem complete_params (p : Packet) (s : State) : (complete p s).params = s.params := by
  unfold complete; split <;> rfl

@[simp] theorem complete_mem (p : Packet) (s : State) : (complete p s).mem = s.mem := by
  unfold complete; split <;> rfl

@[simp] theorem complete_buflen (p : Packet) (s : State) : (complete p s).buflen = s.buflen := by
  unfold complete; split <;> rfl

@[simp] theorem complete_cur (p : Packet) (s : State) : (complete p s).cur = s.cur := by
  unfold complete; split <;> rfl

@[simp] theorem complete_rdata (p : Packet) (s : State) : (complete p s).rdata = s.rdata := by
  unfold complete; split <;> rfl

@[simp] theorem complete_ver (p : Packet) (s : State) : (complete p s).ver = s.ver := by
  unfold complete; split <;> rfl

@[simp] theorem complete_tid (p : Packet) (s : State) : (complete p s).tid = s.tid := by
  unfold complete; split <;> rfl

@[simp] theorem complete_ltid (p : Packet) (s : State) : (complete p s).ltid = s.ltid := by
  unfold complete; split <;> rfl

@[simp] theorem complete_tlen (p : Packet) (s : State) : (complete p s).tlen = s.tlen := by
  unfold complete; split <;> rfl

@[simp] theorem complete_pcnt (p : Packet) (s : State) : (complete p s).pcnt = s.pcnt := by
  unfold complete; split <;> rfl

@[simp] theorem complete_grp (p : Packet) (s : State) : (complete p s).grp = s.grp := by
  unfold complete; split <;> rfl

@[simp] theorem complete_acc (p : Packet) (s : State) : (complete p s).acc = s.acc := by
  unfold complete; split <;> rfl

@[simp] theorem complete_derr (p : Packet) (s : State) : (complete p s).derr = s.derr := by
  unfold complete; split <;> rfl

@[simp] theorem complete_epos (p : Packet) (s : State) : (complete p s).epos = s.epos := by
  unfold complete; split <;> rfl

@[simp] theorem complete_inputs (p : Packet) (s : State) : (complete p s).inputs = s.inputs := by
  unfold complete; split <;> rfl

@[simp] theorem complete_response (p : Packet) (s : State) : (complete p s).response = s.response := by
  unfold complete; split <;> rfl

@[simp] theorem complete_readData (p : Packet) (s : State) : (complete p s).readData = s.readData := by
  unfold complete; split <;> rfl

@[simp] theorem complete_free (p : Packet) (s : State) : (complete p s).free = s.free := by
  unfold complete; split <;> rfl

/-- All a completion can do. -/
theorem complete_cases (p : Packet) (s : State) :
    (s.stk = [] ∧ complete p s = finishRun p s) ∨
      ∃ f rest, s.stk = f :: rest ∧
        complete p s = setPhase .next (setStk ({ f with children := f.children ++ [p] } :: rest) s) := by
  unfold complete
  cases h : s.stk with
  | nil => exact .inl ⟨rfl, rfl⟩
  | cons f rest => exact .inr ⟨f, rest, rfl, rfl⟩

theorem complete_root {p : Packet} {s : State} (h : s.stk = []) : complete p s = finishRun p s := by
  unfold complete; rw [h]

theorem complete_child {p : Packet} {s : State} {f : Frame} {rest : List Frame} (h : s.stk = f :: rest) :
    complete p s = setPhase .next (setStk ({ f with children := f.children ++ [p] } :: rest) s) := by
  unfold complete; rw [h]

/-! ## Where instructions are enabled -/

theorem exec_ofL0 (k : Kind) (ver : Version) (len : TotalLength) (s : State) :
    exec (Instr.ofL0 k ver len) s = packetL0 k ver len s := by cases k <;> rfl

theorem exec_ofL1 (k : Kind) (ver : Version) (cnt : PacketCount) (s : State) :
    exec (Instr.ofL1 k ver cnt) s = packetL1 k ver cnt s := by cases k <;> rfl

/-- Every packet form is LIT, an OP0 form or an OP1 form. -/
theorem decodeHeader_cases {bits rest : List Bool} {i : Instr} (h : decodeHeader bits = .ok (i, rest)) :
    (∃ ver, i = .lit ver ∧ bits = fieldBits ver ++ (fieldBits literalTypeId ++ rest)) ∨
      (∃ k ver len, i = Instr.ofL0 k ver len ∧
        bits = fieldBits ver ++ (fieldBits k.typeId ++ false :: (fieldBits len ++ rest))) ∨
      (∃ k ver cnt, i = Instr.ofL1 k ver cnt ∧
        bits = fieldBits ver ++ (fieldBits k.typeId ++ true :: (fieldBits cnt ++ rest))) := by
  unfold decodeHeader at h
  split at h
  · cases h
  rename_i ver bits₁ hv
  split at h
  · cases h
  rename_i tid bits₂ ht
  have hv := takeField_eq_some hv
  have ht := takeField_eq_some ht
  split at h
  · rename_i hk
    obtain ⟨rfl, rfl⟩ := Prod.mk.inj (Except.ok.inj h)
    exact .inl ⟨ver, rfl, by rw [hv, ht, kindOf_eq_none hk]⟩
  · rename_i k hk
    have hk := kindOf_eq_some hk
    subst hk
    unfold decodeOperator at h
    split at h
    · cases h
    · split at h
      · cases h
      · rename_i hl
        have hl := takeField_eq_some hl
        obtain ⟨rfl, rfl⟩ := Prod.mk.inj (Except.ok.inj h)
        exact .inr (.inl ⟨k, ver, _, rfl, by rw [hv, ht, hl]⟩)
    · split at h
      · cases h
      · rename_i hl
        have hl := takeField_eq_some hl
        obtain ⟨rfl, rfl⟩ := Prod.mk.inj (Except.ok.inj h)
        exact .inr (.inr ⟨k, ver, _, rfl, by rw [hv, ht, hl]⟩)

end Sys2Proof.Machine
end

