-- ==== Sys2Proof/Laws/Step.lean ====
section
/-! SUPPORT. What the sequencer's step is in each phase, in terms of the shared operations and the bits of the buffer: the
decoder's lookahead is seen to play no part beyond the fields a step reads. -/

namespace Sys2Proof.Machine

open Sys2Proof Sys2Proof.Safety

theorem step_of_no_input {s : State} (h : s.inputs = []) : step s = sequencerStep s := by
  unfold step machineStep; rw [h]

theorem step_of_input {s : State} {i : Input} {r : List Input} (h : s.inputs = i :: r) :
    step s = takeInput i (setInputs r s) := by
  unfold step machineStep; rw [h]

theorem takeCommand_of_busy {w : CommandWord} {s : State} (h : s.busy = true) : takeCommand w s = .next s := if_pos h

theorem takeCommand_of_not_busy {w : CommandWord} {s : State} (h : s.busy = false) :
    takeCommand w s = exec (decodeCommand w) s := by
  rw [takeCommand, h]; rfl

theorem lookahead_of_inBuffer {s : State} (h : CursorInBuffer s) :
    lookahead s = some (peek s.mem s.cur.addr (min s.cur.rem longestForm)) := by
  unfold lookahead
  obtain ⟨h1, h2⟩ := h
  apply if_pos
  unfold Cursor.addr Cursor.rem
  omega

/-- A stream decode of the next `n` bits of the buffer, header fields first. -/
theorem decodeHeader_of_fields {bits : List Bool} {ver : Version} {tid : TypeId} :
    decodeHeader (fieldBits ver ++ fieldBits tid ++ bits) =
      match kindOf tid with
      | none => .ok (.lit ver, bits)
      | some k => decodeOperator ver k bits := by
  rw [List.append_assoc, decodeHeader, takeField_fieldBits]
  dsimp only
  rw [takeField_fieldBits]
  all_goals rfl

theorem decodeHeader_peek {m : List Host.Cell} {a n : Nat} (h : 6 ≤ n) :
    decodeHeader (peek m a n) =
      match kindOf (BitVec.ofNat 3 (readNat m (a + 3) 3)) with
      | none => .ok (.lit (BitVec.ofNat 3 (readNat m a 3)), peek m (a + 6) (n - 6))
      | some k => decodeOperator (BitVec.ofNat 3 (readNat m a 3)) k (peek m (a + 6) (n - 6)) := by
  rw [decodeHeader, takeField_peek m a (by omega : 3 ≤ n)]
  dsimp only
  rw [takeField_peek m (a + 3) (by omega : 3 ≤ n - 3), show a + 3 + 3 = a + 6 by omega, show n - 3 - 3 = n - 6 by omega]
  all_goals rfl

theorem decodeHeader_short {bits : List Bool} (h : bits.length < 6) : decodeHeader bits = .error .truncated := by
  unfold decodeHeader
  by_cases h3 : bits.length < 3
  · rw [takeField_of_lt h3]
  · rw [takeField_of_le (by omega)]
    dsimp only
    rw [takeField_of_lt (by rw [List.length_drop]; omega)]

theorem execLit_hdr {ver : Version} {s : State} (h : s.phase = .hdr) :
    exec (.lit ver) s = headerStep ver literalTypeId s := by
  show execLit ver s = _
  unfold execLit; rw [h]

theorem execL0_hdr {k : Kind} {ver : Version} {len : TotalLength} {s : State} (h : s.phase = .hdr) :
    exec (Instr.ofL0 k ver len) s = headerStep ver k.typeId s := by
  rw [exec_ofL0]; unfold packetL0; rw [h]

theorem execL1_hdr {k : Kind} {ver : Version} {cnt : PacketCount} {s : State} (h : s.phase = .hdr) :
    exec (Instr.ofL1 k ver cnt) s = headerStep ver k.typeId s := by
  rw [exec_ofL1]; unfold packetL1; rw [h]

theorem execL0_oph {k : Kind} {ver : Version} {len : TotalLength} {s : State} (h : s.phase = .oph)
    (hv : s.ver = ver) (ht : s.tid = k.typeId) : exec (Instr.ofL0 k ver len) s = openWindow k ver len s := by
  rw [exec_ofL0]; unfold packetL0; rw [h]; exact if_pos ⟨hv, ht⟩

theorem execL1_oph {k : Kind} {ver : Version} {cnt : PacketCount} {s : State} (h : s.phase = .oph)
    (hv : s.ver = ver) (ht : s.tid = k.typeId) : exec (Instr.ofL1 k ver cnt) s = openCount k ver cnt s := by
  rw [exec_ofL1]; unfold packetL1; rw [h]; exact if_pos ⟨hv, ht⟩

theorem execL0_next {f : Frame} {total : TotalLength} {parent : Cursor} {rest : List Frame} {s : State}
    (h : s.phase = .next) (hs : s.stk = f :: rest) (hm : f.mode = .l0 total parent) :
    exec (Instr.ofL0 f.kind f.ver total) s = nextWindow f total parent rest s := by
  rw [exec_ofL0]; unfold packetL0; rw [h, hs]; dsimp only; rw [hm]; dsimp only; exact if_pos ⟨rfl, rfl, rfl⟩

theorem execL1_next {f : Frame} {cnt : PacketCount} {rest : List Frame} {s : State}
    (h : s.phase = .next) (hs : s.stk = f :: rest) (hm : f.mode = .l1 cnt) :
    exec (Instr.ofL1 f.kind f.ver cnt) s = nextCount f cnt rest s := by
  rw [exec_ofL1]; unfold packetL1; rw [h, hs]; dsimp only; rw [hm]; dsimp only; exact if_pos ⟨rfl, rfl, rfl⟩

/-- A header step depends on its type id only where it reads it. -/
theorem headerStep_congr {v v' : Version} {t t' : TypeId} {s : State} (hv : 3 ≤ s.cur.rem → v = v')
    (ht : 6 ≤ s.cur.rem → t = t') : headerStep v t s = headerStep v' t' s := by
  unfold headerStep
  by_cases h3 : s.cur.rem < 3
  · rw [consume_of_lt h3, consume_of_lt h3]
  · obtain rfl := hv (by omega)
    by_cases h6 : s.cur.rem < 6
    · have hr : (setVer v (advance 3 (v.setWidth 16) s)).cur.rem < 3 := by
        simp only [setVer_cur, advance_cur, Cursor.rem] at *; omega
      rw [consume_of_le (s := s) (by omega), consume_of_le (s := s) (by omega), consume_of_lt hr, consume_of_lt hr]
    · obtain rfl := ht (by omega)
      rfl

/-- The step in HDR is step_HDR on the two fields at A (41_packet_decoder.md R121). -/
theorem sequencer_hdr {s : State} (hp : s.phase = .hdr) (hb : CursorInBuffer s) :
    sequencerStep s = headerStep (fieldAt s 3 s.cur.addr) (fieldAt s 3 (s.cur.addr + 3)) s := by
  have hfetch : fetch s = .ofDecoded (peek s.mem s.cur.addr (min s.cur.rem longestForm))
      (decodeHeader (peek s.mem s.cur.addr (min s.cur.rem longestForm))) := by
    unfold fetch; rw [hp, lookahead_of_inBuffer hb]
  have hrun : ∀ bits, runCut bits s = cutHeader bits s := by intro bits; unfold runCut; rw [hp]
  unfold sequencerStep
  rw [hfetch]
  by_cases h6 : 6 ≤ s.cur.rem
  · have hn : 6 ≤ min s.cur.rem longestForm := by unfold longestForm; omega
    rw [decodeHeader_peek hn]
    split
    · rename_i i hi
      revert hi
      cases hk : kindOf (BitVec.ofNat 3 (readNat s.mem (s.cur.addr + 3) 3)) with
      | none =>
        intro hi
        obtain rfl := Fetched.run.inj hi
        rw [execLit_hdr hp, ← kindOf_eq_none hk]; rfl
      | some k =>
        have hk := kindOf_eq_some hk
        dsimp only
        unfold decodeOperator
        intro hi
        split at hi
        · cases hi
        · split at hi
          · cases hi
          · obtain rfl := Fetched.run.inj hi; rw [execL0_hdr hp, ← hk]; rfl
        · split at hi
          · cases hi
          · obtain rfl := Fetched.run.inj hi; rw [execL1_hdr hp, ← hk]; rfl
    · rename_i bits hi
      have hbits : bits = peek s.mem s.cur.addr (min s.cur.rem longestForm) := by
        revert hi
        generalize (match kindOf (BitVec.ofNat 3 (readNat s.mem (s.cur.addr + 3) 3)) with
          | none => _
          | some k => _ : Decoded) = d
        cases d with
        | ok p => intro hi; cases hi
        | error e => intro hi; exact (Fetched.cut.inj hi).symm
      rw [hrun, cutHeader, hbits, take_peek _ _ (by omega), drop_peek _ _ (by omega), take_peek _ _ (by omega),
        bitsToNat_peek, bitsToNat_peek]
      rfl
    all_goals
      rename_i hi
      revert hi
      generalize (match kindOf (BitVec.ofNat 3 (readNat s.mem (s.cur.addr + 3) 3)) with
        | none => _
        | some k => _ : Decoded) = d
      cases d <;> intro hi <;> cases hi
  · rw [decodeHeader_short (by simp; omega)]
    show runCut _ s = _
    rw [hrun]
    unfold cutHeader
    apply headerStep_congr
    · intro h3
      rw [take_peek _ _ (by unfold longestForm; omega), bitsToNat_peek]; rfl
    · intro h; omega

/-- The step in LIT is step_LIT on the group at A (41_packet_decoder.md R123). -/
theorem sequencer_lit {s : State} (hp : s.phase = .lit) (hb : CursorInBuffer s) :
    sequencerStep s = groupStep (fieldAt s 5 s.cur.addr) s := by
  have hfetch : fetch s = .ofDecoded (peek s.mem s.cur.addr (min s.cur.rem longestForm))
      (decodeGroup (peek s.mem s.cur.addr (min s.cur.rem longestForm))) := by
    unfold fetch; rw [hp, lookahead_of_inBuffer hb]
  unfold sequencerStep
  rw [hfetch]
  by_cases h5 : 5 ≤ s.cur.rem
  · obtain ⟨n, hn⟩ : ∃ n, min s.cur.rem longestForm = n + 1 := ⟨_, (Nat.sub_add_cancel (by unfold longestForm; omega)).symm⟩
    have hn4 : 4 ≤ n := by unfold longestForm at hn; omega
    rw [hn, peek]
    unfold decodeGroup
    dsimp only
    rw [takeField_peek _ _ hn4]
    dsimp only [Fetched.ofDecoded]
    have hg : fieldAt s 5 s.cur.addr =
        groupOf (readBit s.mem s.cur.addr) (BitVec.ofNat 4 (readNat s.mem (s.cur.addr + 1) 4)) := by
      unfold fieldAt groupOf
      rw [← bitsToNat_peek, peek, bitsToNat_cons, bitsToNat_peek, peek_length]
      have hlt := readNat_lt s.mem (s.cur.addr + 1) 4
      generalize readNat s.mem (s.cur.addr + 1) 4 = x at hlt ⊢
      apply BitVec.eq_of_toNat_eq
      rw [BitVec.toNat_append, BitVec.toNat_ofNat, BitVec.toNat_ofNat, ← Nat.shiftLeft_add_eq_or_of_lt (by omega),
        Nat.shiftLeft_eq]
      cases readBit s.mem s.cur.addr <;> simp <;> omega
    rw [hg]
    cases readBit s.mem s.cur.addr
    · show execGrpF _ s = _; unfold execGrpF; rw [hp]
    · show execGrpC _ s = _; unfold execGrpC; rw [hp]
  · have hshort : decodeGroup (peek s.mem s.cur.addr (min s.cur.rem longestForm)) = .error .truncated := by
      have hl : (peek s.mem s.cur.addr (min s.cur.rem longestForm)).length < 5 := by simp; omega
      revert hl
      generalize peek s.mem s.cur.addr (min s.cur.rem longestForm) = bits
      intro hl
      unfold decodeGroup
      cases bits with
      | nil => rfl
      | cons b bs => dsimp only; rw [takeField_of_lt (by simp at hl; omega)]
    rw [hshort]
    show runCut _ s = _
    unfold runCut groupStep
    rw [hp, consume_of_lt (by omega)]

/-- The step in OPH is step_OPH on the bits at A (41_packet_decoder.md R122). -/
theorem sequencer_oph {s : State} {k : Kind} (hp : s.phase = .oph) (ht : s.tid = k.typeId) (hb : CursorInBuffer s) :
    sequencerStep s =
      if s.cur.rem = 0 then raise .unexpectedEnd s.cur.addr s
      else if readBit s.mem s.cur.addr then openCount k s.ver (fieldAt s 11 (s.cur.addr + 1)) s
      else openWindow k s.ver (fieldAt s 15 (s.cur.addr + 1)) s := by
  have hfetch : fetch s = .ofDecoded (peek s.mem s.cur.addr (min s.cur.rem longestForm))
      (decodeOperator s.ver k (peek s.mem s.cur.addr (min s.cur.rem longestForm))) := by
    unfold fetch; rw [hp, lookahead_of_inBuffer hb]; dsimp only
    rw [decodeHeader_of_fields, ht, kindOf_typeId]
  unfold sequencerStep
  rw [hfetch]
  by_cases h0 : s.cur.rem = 0
  · rw [if_pos h0, h0]
    show runCut [] s = _
    unfold runCut; rw [hp]; rfl
  · rw [if_neg h0]
    obtain ⟨n, hn⟩ : ∃ n, min s.cur.rem longestForm = n + 1 :=
      ⟨_, (Nat.sub_add_cancel (by unfold longestForm; omega)).symm⟩
    have hadv : ∀ (w : BitVec 16) (l : BitVec 1), (setLtid l (advance 1 w s)).cur.rem = s.cur.rem - 1 := by
      intro w l; simp only [setLtid_cur, advance_cur, Cursor.rem]; omega
    rw [hn, peek]
    unfold decodeOperator
    cases hbit : readBit s.mem s.cur.addr
    · dsimp only
      rw [if_neg (by simp)]
      by_cases h15 : 15 ≤ n
      · rw [takeField_peek _ _ h15]
        exact execL0_oph hp rfl ht
      · rw [takeField_of_lt (by rw [peek_length]; omega)]
        show runCut _ s = _
        unfold runCut openWindow
        rw [hp, consume_of_le (by omega), consume_of_lt (by rw [hadv]; unfold longestForm at hn; omega)]
        rfl
    · dsimp only
      rw [if_pos rfl]
      by_cases h11 : 11 ≤ n
      · rw [takeField_peek _ _ h11]
        exact execL1_oph hp rfl ht
      · rw [takeField_of_lt (by rw [peek_length]; omega)]
        show runCut _ s = _
        unfold runCut openCount
        rw [hp, consume_of_le (by omega), consume_of_lt (by rw [hadv]; unfold longestForm at hn; omega)]
        rfl

/-- The step in NEXT is step_NEXT on the top frame (41_packet_decoder.md R124). -/
theorem sequencer_next {s : State} {f : Frame} {rest : List Frame} (hp : s.phase = .next) (hs : s.stk = f :: rest) :
    sequencerStep s =
      match f.mode with
      | .l0 total parent => nextWindow f total parent rest s
      | .l1 cnt => nextCount f cnt rest s := by
  unfold sequencerStep fetch
  rw [hp, hs]
  dsimp only
  unfold Frame.instr
  cases hm : f.mode with
  | l0 total parent => exact execL0_next hp hs hm
  | l1 cnt => exact execL1_next hp hs hm

/-- Outside a run the sequencer does nothing (41_packet_decoder.md R119). -/
theorem sequencer_waits {s : State} (h : s.busy = false) : sequencerStep s = .next s := by
  unfold sequencerStep fetch
  rcases not_busy_iff.1 h with h | h | h <;> rw [h]

end Sys2Proof.Machine
end

