-- ==== Sys2Proof/Laws/Inversion.lean ====
section
/-! SUPPORT. Said once: everything a sequencer step can do. For each of the six shared steps, the cases in which it ends,
with the state it leaves in each; and that it always leaves one. Later proofs cite these and unfold nothing. -/

namespace Sys2Proof.Machine

open Sys2Proof Sys2Proof.Safety

/-! ## The states a step passes through -/

/-- After `read_bits(3)` into VER. -/
@[simp] def afterVersion (v : Version) (s : State) : State := setVer v (advance 3 (v.setWidth 16) s)

/-- After both reads of a header. -/
@[simp] def afterHeader (v : Version) (t : TypeId) (s : State) : State :=
  setTid t (advance 3 (t.setWidth 16) (afterVersion v s))

/-- After the read of a group. -/
@[simp] def afterGroup (g : BitVec 5) (s : State) : State := setGrp g (advance 5 (g.setWidth 16) s)

/-- After the read of the length-type id. -/
@[simp] def afterLengthType (l : BitVec 1) (s : State) : State := setLtid l (advance 1 (l.setWidth 16) s)

/-- After the length of an OP0 packet. -/
@[simp] def afterLength (len : TotalLength) (s : State) : State :=
  setTlen len (advance 15 (len.setWidth 16) (afterLengthType 0 s))

/-- After the count of an OP1 packet. -/
@[simp] def afterCount (cnt : PacketCount) (s : State) : State :=
  setPcnt cnt (advance 11 (cnt.setWidth 16) (afterLengthType 1 s))

theorem rem_advance (n : Nat) (v : BitVec 16) (s : State) : (advance n v s).cur.rem = s.cur.rem - n := by
  rw [advance_cur]; unfold Cursor.rem; simp; omega

theorem addr_advance (n : Nat) (v : BitVec 16) (s : State) : (advance n v s).cur.addr = s.cur.addr + n := by
  rw [advance_cur]; unfold Cursor.addr; simp; omega

/-! ## step_HDR -/

/-- The states step_HDR can leave. -/
inductive HeaderEnds (v : Version) (t : TypeId) (s : State) : State → Prop where
  | noVersion (h : s.cur.rem < 3) : HeaderEnds v t s (faultEntry .unexpectedEnd s.cur.addr s)
  | noTypeId (h3 : 3 ≤ s.cur.rem) (h6 : s.cur.rem < 6) :
    HeaderEnds v t s (faultEntry .unexpectedEnd (s.cur.addr + 3) (afterVersion v s))
  | literal (h6 : 6 ≤ s.cur.rem) (ht : t = literalTypeId) :
    HeaderEnds v t s (setPhase .lit (setAcc 0 (afterHeader v t s)))
  | operator (h6 : 6 ≤ s.cur.rem) (ht : t ≠ literalTypeId) : HeaderEnds v t s (setPhase .oph (afterHeader v t s))

theorem headerStep_ends (v : Version) (t : TypeId) (s : State) :
    ∃ s', headerStep v t s = .next s' ∧ HeaderEnds v t s s' := by
  unfold headerStep
  by_cases h3 : s.cur.rem < 3
  · exact ⟨_, consume_of_lt h3, .noVersion h3⟩
  rw [consume_of_le (s := s) (by omega)]
  have hr : (setVer v (advance 3 (v.setWidth 16) s)).cur.rem = s.cur.rem - 3 := rem_advance 3 (v.setWidth 16) s
  by_cases h6 : s.cur.rem < 6
  · rw [consume_of_lt (by omega), setVer_cur, addr_advance]
    exact ⟨_, rfl, .noTypeId (by omega) h6⟩
  rw [consume_of_le (by omega)]
  by_cases ht : t = literalTypeId
  · rw [if_pos ht]; exact ⟨_, rfl, .literal (by omega) ht⟩
  · rw [if_neg ht]; exact ⟨_, rfl, .operator (by omega) ht⟩

theorem headerStep_next {v : Version} {t : TypeId} {s s' : State} (h : headerStep v t s = .next s') :
    HeaderEnds v t s s' := by
  obtain ⟨u, hu, he⟩ := headerStep_ends v t s
  obtain rfl := Host.Outcome.next.inj (h.symm.trans hu); exact he

/-! ## step_LIT -/

/-- The states step_LIT can leave. -/
inductive GroupEnds (g : BitVec 5) (s : State) : State → Prop where
  | noGroup (h : s.cur.rem < 5) : GroupEnds g s (faultEntry .unexpectedEnd s.cur.addr s)
  | overflow (h : 5 ≤ s.cur.rem) (ha : accFull s.acc = true) :
    GroupEnds g s (faultEntry .literalOverflow (s.cur.addr + 5) (afterGroup g s))
  | more (h : 5 ≤ s.cur.rem) (ha : accFull s.acc = false) (hg : continues g = true) :
    GroupEnds g s (setAcc (accumulate s.acc (payload g)) (afterGroup g s))
  | last (h : 5 ≤ s.cur.rem) (ha : accFull s.acc = false) (hg : continues g = false) :
    GroupEnds g s (complete (.literal s.ver (accumulate s.acc (payload g)))
      (setAcc (accumulate s.acc (payload g)) (afterGroup g s)))

theorem groupStep_ends (g : BitVec 5) (s : State) : ∃ s', groupStep g s = .next s' ∧ GroupEnds g s s' := by
  unfold groupStep
  by_cases h5 : s.cur.rem < 5
  · exact ⟨_, consume_of_lt h5, .noGroup h5⟩
  rw [consume_of_le (by omega), addr_advance, advance_acc, advance_ver]
  cases ha : accFull s.acc with
  | true => exact ⟨_, if_pos rfl, .overflow (by omega) ha⟩
  | false =>
    rw [if_neg (by decide)]
    cases hg : continues g with
    | true => exact ⟨_, if_pos rfl, .more (by omega) ha hg⟩
    | false => exact ⟨_, if_neg (by decide), .last (by omega) ha hg⟩

theorem groupStep_next {g : BitVec 5} {s s' : State} (h : groupStep g s = .next s') : GroupEnds g s s' := by
  obtain ⟨u, hu, he⟩ := groupStep_ends g s
  obtain rfl := Host.Outcome.next.inj (h.symm.trans hu); exact he

/-! ## step_OPH -/

/-- The states step_OPH of an OP0 packet can leave. -/
inductive WindowEnds (k : Kind) (ver : Version) (len : TotalLength) (s : State) : State → Prop where
  | noLengthType (h : s.cur.rem = 0) : WindowEnds k ver len s (faultEntry .unexpectedEnd s.cur.addr s)
  | noLength (h : 1 ≤ s.cur.rem) (h16 : s.cur.rem < 16) :
    WindowEnds k ver len s (faultEntry .unexpectedEnd (s.cur.addr + 1) (afterLengthType 0 s))
  | tooLong (h : 16 ≤ s.cur.rem) (hl : s.cur.rem < 16 + len.toNat) :
    WindowEnds k ver len s (faultEntry .unexpectedEnd (s.cur.addr + 16) (afterLength len s))
  | tooDeep (h : 16 + len.toNat ≤ s.cur.rem) (hf : s.stackFull = true) :
    WindowEnds k ver len s (faultEntry .depthExceeded (s.cur.addr + 16) (afterLength len s))
  | pushed (h : 16 + len.toNat ≤ s.cur.rem) (hf : s.stackFull = false) :
    WindowEnds k ver len s
      (pushFrame { ver := ver, kind := k, mode := .l0 len { s.cur with pos := s.cur.pos + 16 }, children := [] }
        (setCur { base := s.cur.addr + 16, len := len.toNat, pos := 0 } (afterLength len s)))

theorem openWindow_ends (k : Kind) (ver : Version) (len : TotalLength) (s : State) :
    ∃ s', openWindow k ver len s = .next s' ∧ WindowEnds k ver len s s' := by
  unfold openWindow
  by_cases h0 : s.cur.rem < 1
  · exact ⟨_, consume_of_lt h0, .noLengthType (by omega)⟩
  rw [consume_of_le (s := s) (by omega)]
  have hr : (setLtid 0 (advance 1 ((0#1).setWidth 16) s)).cur.rem = s.cur.rem - 1 :=
    rem_advance 1 ((0#1).setWidth 16) s
  by_cases h16 : s.cur.rem < 16
  · rw [consume_of_lt (by omega), setLtid_cur, addr_advance]
    exact ⟨_, rfl, .noLength (by omega) h16⟩
  rw [consume_of_le (by omega)]
  have hc : (advance 15 (len.setWidth 16) (setLtid 0 (advance 1 ((0#1).setWidth 16) s))).cur =
      { s.cur with pos := s.cur.pos + 16 } := rfl
  have hrem : Cursor.rem { s.cur with pos := s.cur.pos + 16 } = s.cur.rem - 16 := by unfold Cursor.rem; simp; omega
  have haddr : Cursor.addr { s.cur with pos := s.cur.pos + 16 } = s.cur.addr + 16 := by
    unfold Cursor.addr; simp; omega
  have hfull : (advance 15 (len.setWidth 16) (setLtid 0 (advance 1 ((0#1).setWidth 16) s))).stackFull = s.stackFull :=
    rfl
  rw [hc, hfull]
  by_cases hl : s.cur.rem < 16 + len.toNat
  · rw [Cursor.subView_of_lt (by omega), haddr]
    exact ⟨_, rfl, .tooLong (by omega) hl⟩
  rw [Cursor.subView_of_le (by omega), haddr]
  cases hf : s.stackFull with
  | true => exact ⟨_, rfl, .tooDeep (by omega) hf⟩
  | false => exact ⟨_, rfl, .pushed (by omega) hf⟩

theorem openWindow_next {k : Kind} {ver : Version} {len : TotalLength} {s s' : State}
    (h : openWindow k ver len s = .next s') : WindowEnds k ver len s s' := by
  obtain ⟨u, hu, he⟩ := openWindow_ends k ver len s
  obtain rfl := Host.Outcome.next.inj (h.symm.trans hu); exact he

/-- The states step_OPH of an OP1 packet can leave. -/
inductive CountEnds (k : Kind) (ver : Version) (cnt : PacketCount) (s : State) : State → Prop where
  | noLengthType (h : s.cur.rem = 0) : CountEnds k ver cnt s (faultEntry .unexpectedEnd s.cur.addr s)
  | noCount (h : 1 ≤ s.cur.rem) (h12 : s.cur.rem < 12) :
    CountEnds k ver cnt s (faultEntry .unexpectedEnd (s.cur.addr + 1) (afterLengthType 1 s))
  | tooDeep (h : 12 ≤ s.cur.rem) (hf : s.stackFull = true) :
    CountEnds k ver cnt s (faultEntry .depthExceeded (s.cur.addr + 12) (afterCount cnt s))
  | pushed (h : 12 ≤ s.cur.rem) (hf : s.stackFull = false) :
    CountEnds k ver cnt s
      (pushFrame { ver := ver, kind := k, mode := .l1 cnt, children := [] } (afterCount cnt s))

theorem openCount_ends (k : Kind) (ver : Version) (cnt : PacketCount) (s : State) :
    ∃ s', openCount k ver cnt s = .next s' ∧ CountEnds k ver cnt s s' := by
  unfold openCount
  by_cases h0 : s.cur.rem < 1
  · exact ⟨_, consume_of_lt h0, .noLengthType (by omega)⟩
  rw [consume_of_le (s := s) (by omega)]
  have hr : (setLtid 1 (advance 1 ((1#1).setWidth 16) s)).cur.rem = s.cur.rem - 1 :=
    rem_advance 1 ((1#1).setWidth 16) s
  by_cases h12 : s.cur.rem < 12
  · rw [consume_of_lt (by omega), setLtid_cur, addr_advance]
    exact ⟨_, rfl, .noCount (by omega) h12⟩
  rw [consume_of_le (by omega)]
  have haddr : (advance 11 (cnt.setWidth 16) (setLtid 1 (advance 1 ((1#1).setWidth 16) s))).cur.addr =
      s.cur.addr + 12 := by rw [addr_advance, setLtid_cur, addr_advance]
  have hfull : (advance 11 (cnt.setWidth 16) (setLtid 1 (advance 1 ((1#1).setWidth 16) s))).stackFull = s.stackFull :=
    rfl
  rw [hfull, haddr]
  cases hf : s.stackFull with
  | true => exact ⟨_, rfl, .tooDeep (by omega) hf⟩
  | false => exact ⟨_, rfl, .pushed (by omega) hf⟩

theorem openCount_next {k : Kind} {ver : Version} {cnt : PacketCount} {s s' : State}
    (h : openCount k ver cnt s = .next s') : CountEnds k ver cnt s s' := by
  obtain ⟨u, hu, he⟩ := openCount_ends k ver cnt s
  obtain rfl := Host.Outcome.next.inj (h.symm.trans hu); exact he

/-! ## step_NEXT -/

/-- The states step_NEXT can leave with a frame on top. -/
inductive NextEnds (f : Frame) (rest : List Frame) (s : State) : State → Prop where
  | child (total : TotalLength) (parent : Cursor) (hm : f.mode = .l0 total parent)
    (h : s.params.exhSlack < s.cur.rem) : NextEnds f rest s (setPhase .hdr s)
  | mismatch (total : TotalLength) (parent : Cursor) (hm : f.mode = .l0 total parent)
    (h : s.cur.rem ≤ s.params.exhSlack) (hp : s.cur.pos ≠ total.toNat) :
    NextEnds f rest s (faultEntry .lengthMismatch s.cur.addr s)
  | badParent (total : TotalLength) (parent : Cursor) (hm : f.mode = .l0 total parent)
    (h : s.cur.rem ≤ s.params.exhSlack) (hp : s.cur.pos = total.toNat) (hs : parent.rem < total.toNat) :
    NextEnds f rest s (faultEntry .unexpectedEnd parent.addr (setCur parent s))
  | closed (total : TotalLength) (parent : Cursor) (hm : f.mode = .l0 total parent)
    (h : s.cur.rem ≤ s.params.exhSlack) (hp : s.cur.pos = total.toNat) (hs : total.toNat ≤ parent.rem) :
    NextEnds f rest s
      (complete f.packet (setStk rest (setCur { parent with pos := parent.pos + total.toNat } s)))
  | counted (hm : f.mode = .l1 0) : NextEnds f rest s (complete f.packet (setStk rest s))
  | another (cnt : PacketCount) (hm : f.mode = .l1 cnt) (h : cnt ≠ 0) :
    NextEnds f rest s (setPhase .hdr (setStk ({ f with mode := .l1 (cnt - 1) } :: rest) s))

theorem nextWindow_ends {f : Frame} {total : TotalLength} {parent : Cursor} (rest : List Frame) (s : State)
    (hm : f.mode = .l0 total parent) :
    ∃ s', nextWindow f total parent rest s = .next s' ∧ NextEnds f rest s s' := by
  unfold nextWindow Cursor.exhausted
  by_cases h : s.cur.rem ≤ s.params.exhSlack
  · rw [if_pos (by simpa using h)]
    by_cases hp : s.cur.pos = total.toNat
    · rw [if_neg (by simpa using hp)]
      by_cases hs : total.toNat ≤ parent.rem
      · rw [Cursor.skip_of_le hs]; exact ⟨_, rfl, .closed total parent hm h hp hs⟩
      · rw [Cursor.skip_of_lt (by omega)]; exact ⟨_, rfl, .badParent total parent hm h hp (by omega)⟩
    · rw [if_pos hp]; exact ⟨_, rfl, .mismatch total parent hm h hp⟩
  · rw [if_neg (by simpa using h)]; exact ⟨_, rfl, .child total parent hm (by omega)⟩

theorem nextCount_ends {f : Frame} {cnt : PacketCount} (rest : List Frame) (s : State) (hm : f.mode = .l1 cnt) :
    ∃ s', nextCount f cnt rest s = .next s' ∧ NextEnds f rest s s' := by
  unfold nextCount
  by_cases h : cnt = 0
  · rw [if_pos h]; exact ⟨_, rfl, .counted (by rw [hm, h])⟩
  · rw [if_neg h]; exact ⟨_, rfl, .another cnt hm h⟩

/-! ## A form of the stream, whole -/

/-- Everything a packet form or a group can do when it answers a next state, by PHASE. -/
inductive StreamEnds (s : State) : State → Prop where
  | hdr {t : State} (v : Version) (tid : TypeId) (hp : s.phase = .hdr) (h : HeaderEnds v tid s t) : StreamEnds s t
  | lit {t : State} (g : BitVec 5) (hp : s.phase = .lit) (h : GroupEnds g s t) : StreamEnds s t
  | window {t : State} (k : Kind) (len : TotalLength) (hp : s.phase = .oph) (ht : s.tid = k.typeId)
    (h : WindowEnds k s.ver len s t) : StreamEnds s t
  | count {t : State} (k : Kind) (cnt : PacketCount) (hp : s.phase = .oph) (ht : s.tid = k.typeId)
    (h : CountEnds k s.ver cnt s t) : StreamEnds s t
  | next {t : State} (f : Frame) (rest : List Frame) (hp : s.phase = .next) (hs : s.stk = f :: rest)
    (h : NextEnds f rest s t) : StreamEnds s t

theorem packetL0_next {k : Kind} {ver : Version} {len : TotalLength} {s t : State} (h : packetL0 k ver len s = .next t) :
    StreamEnds s t := by
  unfold packetL0 at h
  split at h
  · rename_i hp; exact .hdr _ _ hp (headerStep_next h)
  · rename_i hp
    split at h
    · rename_i hc; obtain ⟨rfl, ht⟩ := hc; exact .window k len hp ht (openWindow_next h)
    · cases h
  · rename_i hp
    split at h
    · cases h
    · rename_i f rest hs
      split at h
      · rename_i total parent hm
        split at h
        · obtain ⟨u, hu, he⟩ := nextWindow_ends rest s hm
          obtain rfl := Host.Outcome.next.inj (h.symm.trans hu)
          exact .next f rest hp hs he
        · cases h
      · cases h
  all_goals cases h

theorem packetL1_next {k : Kind} {ver : Version} {cnt : PacketCount} {s t : State} (h : packetL1 k ver cnt s = .next t) :
    StreamEnds s t := by
  unfold packetL1 at h
  split at h
  · rename_i hp; exact .hdr _ _ hp (headerStep_next h)
  · rename_i hp
    split at h
    · rename_i hc; obtain ⟨rfl, ht⟩ := hc; exact .count k cnt hp ht (openCount_next h)
    · cases h
  · rename_i hp
    split at h
    · cases h
    · rename_i f rest hs
      split at h
      · cases h
      · rename_i cnt hm
        split at h
        · obtain ⟨u, hu, he⟩ := nextCount_ends rest s hm
          obtain rfl := Host.Outcome.next.inj (h.symm.trans hu)
          exact .next f rest hp hs he
        · cases h
  all_goals cases h

theorem execLit_next {ver : Version} {s t : State} (h : execLit ver s = .next t) : StreamEnds s t := by
  unfold execLit at h
  split at h
  · rename_i hp; exact .hdr _ _ hp (headerStep_next h)
  all_goals cases h

theorem execGrpC_next {d : Nibble} {s t : State} (h : execGrpC d s = .next t) : StreamEnds s t := by
  unfold execGrpC at h
  split at h
  · rename_i hp; exact .lit _ hp (groupStep_next h)
  all_goals cases h

theorem execGrpF_next {d : Nibble} {s t : State} (h : execGrpF d s = .next t) : StreamEnds s t := by
  unfold execGrpF at h
  split at h
  · rename_i hp; exact .lit _ hp (groupStep_next h)
  all_goals cases h

/-- A packet form or a group that answers a next state does one of the things `StreamEnds` lists. -/
theorem exec_stream_next {i : Instr} {s t : State} (h : exec i s = .next t)
    (hi : (∃ bits, encode i = .header bits) ∨ ∃ bits, encode i = .group bits) : StreamEnds s t := by
  cases i
  case lit => exact execLit_next h
  case grpC => exact execGrpC_next h
  case grpF => exact execGrpF_next h
  case rdb => rcases hi with ⟨_, hi⟩ | ⟨_, hi⟩ <;> cases hi
  case exh => rcases hi with ⟨_, hi⟩ | ⟨_, hi⟩ <;> cases hi
  case subv => rcases hi with ⟨_, hi⟩ | ⟨_, hi⟩ <;> cases hi
  case skip => rcases hi with ⟨_, hi⟩ | ⟨_, hi⟩ <;> cases hi
  case start => rcases hi with ⟨_, hi⟩ | ⟨_, hi⟩ <;> cases hi
  case sreset => rcases hi with ⟨_, hi⟩ | ⟨_, hi⟩ <;> cases hi
  all_goals first | exact packetL0_next h | exact packetL1_next h

/-- A sequencer step in a run, with the cursor in the buffer: it always leaves a state, one that `StreamEnds` lists. -/
theorem sequencer_ends {s : State} (hb : s.busy = true) (hc : CursorInBuffer s)
    (hl : s.phase = .oph → s.tid ≠ literalTypeId) (hn : s.phase = .next → s.stk ≠ []) :
    ∃ t, sequencerStep s = .next t ∧ StreamEnds s t := by
  rcases busy_iff.1 hb with hp | hp | hp | hp
  · obtain ⟨t, ht, he⟩ := headerStep_ends (fieldAt s 3 s.cur.addr) (fieldAt s 3 (s.cur.addr + 3)) s
    exact ⟨t, by rw [sequencer_hdr hp hc, ht], .hdr _ _ hp he⟩
  · obtain ⟨k, hk⟩ : ∃ k : Kind, s.tid = k.typeId := by
      cases hk : kindOf s.tid with
      | none => exact absurd (kindOf_eq_none hk) (hl hp)
      | some k => exact ⟨k, kindOf_eq_some hk⟩
    rw [sequencer_oph hp hk hc]
    split
    · rename_i h0; exact ⟨_, rfl, .window k 0 hp hk (.noLengthType h0)⟩
    · split
      · obtain ⟨t, ht, he⟩ := openCount_ends k s.ver (fieldAt s 11 (s.cur.addr + 1)) s
        exact ⟨t, ht, .count k _ hp hk he⟩
      · obtain ⟨t, ht, he⟩ := openWindow_ends k s.ver (fieldAt s 15 (s.cur.addr + 1)) s
        exact ⟨t, ht, .window k _ hp hk he⟩
  · obtain ⟨t, ht, he⟩ := groupStep_ends (fieldAt s 5 s.cur.addr) s
    exact ⟨t, by rw [sequencer_lit hp hc, ht], .lit _ hp he⟩
  · cases hs : s.stk with
    | nil => exact absurd hs (hn hp)
    | cons f rest =>
      rw [sequencer_next hp hs]
      cases hm : f.mode with
      | l0 total parent =>
        obtain ⟨t, ht, he⟩ := nextWindow_ends rest s hm; exact ⟨t, ht, .next f rest hp hs he⟩
      | l1 cnt =>
        obtain ⟨t, ht, he⟩ := nextCount_ends rest s hm; exact ⟨t, ht, .next f rest hp hs he⟩

end Sys2Proof.Machine
end

