-- ==== Sys2Proof/Laws/PerInstr.lean ====
section
/-! SUPPORT. Per-instruction facts about the syntax: in which code space an instruction is encoded, and in how many bits
(30_encoding.md R62 to R66, R75, R76). -/

namespace Sys2Proof.Laws

open Sys2Proof

/-- The four code spaces, with the number of bits the encoding takes in it. -/
inductive CodeSpace where
  | header (bits : Nat)
  | group (bits : Nat)
  | command
  | control
deriving DecidableEq, Repr

/-- Where a word of code stands, and how long it is. -/
def codeSpace : Code → CodeSpace
  | .header bits => .header bits.length
  | .group bits => .group bits.length
  | .command _ => .command
  | .control _ => .control

/-- The format of the instruction's row: LIT 6 bits, OP0 22, OP1 18, GRP 5, a command word, a control value. -/
def formatOf : Instr → CodeSpace
  | .lit _ => .header 6
  | .sumL0 _ _ | .prodL0 _ _ | .minL0 _ _ | .maxL0 _ _ | .gtL0 _ _ | .ltL0 _ _ | .eqL0 _ _ => .header 22
  | .sumL1 _ _ | .prodL1 _ _ | .minL1 _ _ | .maxL1 _ _ | .gtL1 _ _ | .ltL1 _ _ | .eqL1 _ _ => .header 18
  | .grpC _ | .grpF _ => .group 5
  | .rdb _ | .exh _ | .subv _ | .skip _ => .command
  | .start | .sreset _ => .control

namespace CodeLength

/-- An instruction is encoded in its format's code space and length. -/
def Statement (i : Instr) : Prop := codeSpace (encode i) = formatOf i

theorem ofL0 (k : Kind) (ver : Version) (len : TotalLength) : codeSpace (encodeL0 k ver len) = .header 22 := by
  simp [codeSpace, encodeL0]

theorem ofL1 (k : Kind) (ver : Version) (cnt : PacketCount) : codeSpace (encodeL1 k ver cnt) = .header 18 := by
  simp [codeSpace, encodeL1]

theorem lit (ver : Version) : Statement (.lit ver) := by
  simp [Statement, codeSpace, encode, formatOf]
theorem sumL0 (ver : Version) (len : TotalLength) : Statement (.sumL0 ver len) := ofL0 ..
theorem sumL1 (ver : Version) (cnt : PacketCount) : Statement (.sumL1 ver cnt) := ofL1 ..
theorem prodL0 (ver : Version) (len : TotalLength) : Statement (.prodL0 ver len) := ofL0 ..
theorem prodL1 (ver : Version) (cnt : PacketCount) : Statement (.prodL1 ver cnt) := ofL1 ..
theorem minL0 (ver : Version) (len : TotalLength) : Statement (.minL0 ver len) := ofL0 ..
theorem minL1 (ver : Version) (cnt : PacketCount) : Statement (.minL1 ver cnt) := ofL1 ..
theorem maxL0 (ver : Version) (len : TotalLength) : Statement (.maxL0 ver len) := ofL0 ..
theorem maxL1 (ver : Version) (cnt : PacketCount) : Statement (.maxL1 ver cnt) := ofL1 ..
theorem gtL0 (ver : Version) (len : TotalLength) : Statement (.gtL0 ver len) := ofL0 ..
theorem gtL1 (ver : Version) (cnt : PacketCount) : Statement (.gtL1 ver cnt) := ofL1 ..
theorem ltL0 (ver : Version) (len : TotalLength) : Statement (.ltL0 ver len) := ofL0 ..
theorem ltL1 (ver : Version) (cnt : PacketCount) : Statement (.ltL1 ver cnt) := ofL1 ..
theorem eqL0 (ver : Version) (len : TotalLength) : Statement (.eqL0 ver len) := ofL0 ..
theorem eqL1 (ver : Version) (cnt : PacketCount) : Statement (.eqL1 ver cnt) := ofL1 ..
theorem grpC (d : Nibble) : Statement (.grpC d) := by
  simp [Statement, codeSpace, encode, formatOf]
theorem grpF (d : Nibble) : Statement (.grpF d) := by
  simp [Statement, codeSpace, encode, formatOf]
theorem rdb (n : CommandArg) : Statement (.rdb n) := rfl
theorem exh (ignored : CommandArg) : Statement (.exh ignored) := rfl
theorem subv (count : CommandArg) : Statement (.subv count) := rfl
theorem skip (count : CommandArg) : Statement (.skip count) := rfl
theorem start : Statement .start := rfl
theorem sreset (startBit : Bool) : Statement (.sreset startBit) := rfl

end CodeLength

end Sys2Proof.Laws
end

