-- ==== Sys2Proof/Laws/Run.lean ====
section
/-! SUPPORT. Runs of several steps: one step and the rest, and two runs end to end. -/

namespace Sys2Proof.Machine

open Sys2Proof

theorem run_succ_of_next (M : Host.Core) {s t : M.State} (n : Nat) (h : M.step s = .next t) :
    M.run (n + 1) s = M.run n t := by
  simp only [Host.Core.run, h]

theorem next_of_run_succ (M : Host.Core) {s t : M.State} {n : Nat} (h : M.run (n + 1) s = .next t) :
    ∃ u, M.step s = .next u ∧ M.run n u = .next t := by
  cases hs : M.step s with
  | next u => exact ⟨u, rfl, by rw [← run_succ_of_next M n hs]; exact h⟩
  | fault r => simp [Host.Core.run, hs] at h
  | refused r => simp [Host.Core.run, hs] at h

theorem run_append (M : Host.Core) : ∀ {n : Nat} {s t : M.State} (m : Nat), M.run n s = .next t →
    M.run (n + m) s = M.run m t := by
  intro n
  induction n with
  | zero => intro s t m h; obtain rfl := Host.Outcome.next.inj h; rw [Nat.zero_add]
  | succ n ih =>
    intro s t m h
    obtain ⟨u, hu, h⟩ := next_of_run_succ M h
    rw [show n + 1 + m = (n + m) + 1 by omega, run_succ_of_next M _ hu]
    exact ih m h

/-- One step of the machine, and the rest of the run. -/
theorem run_succ {s t : State} (n : Nat) (h : step s = .next t) :
    Sys2Proof.core.run (n + 1) s = Sys2Proof.core.run n t := run_succ_of_next Sys2Proof.core n h

theorem run_succ_inv {s t : State} {n : Nat} (h : Sys2Proof.core.run (n + 1) s = .next t) :
    ∃ u, step s = .next u ∧ Sys2Proof.core.run n u = .next t := next_of_run_succ Sys2Proof.core h

theorem run_add {s t : State} {n : Nat} (m : Nat) (h : Sys2Proof.core.run n s = .next t) :
    Sys2Proof.core.run (n + m) s = Sys2Proof.core.run m t := run_append Sys2Proof.core m h

end Sys2Proof.Machine
end

