-- ==== Sys2Proof/Laws/Windows.lean ====
section
/-! SUPPORT. The windows of the invariant: where the live cursor lies, and what moving it on its range keeps. -/

namespace Sys2Proof.Safety

open Sys2Proof Sys2Proof.Machine

/-- The live cursor lies in its range, and its range in the buffer. -/
theorem WindowsOk.inBuffer {buflen : Nat} : ∀ {fs : List Frame} {c : Cursor}, WindowsOk buflen fs c →
    c.pos ≤ c.len ∧ c.base + c.len ≤ buflen := by
  intro fs
  induction fs with
  | nil => intro c h; obtain ⟨h1, h2, h3⟩ := h; omega
  | cons f fs ih =>
    intro c h
    unfold WindowsOk at h
    split at h
    · exact ih h
    · obtain ⟨h1, h2, h3, h4, h5⟩ := h
      have := ih h5
      unfold Cursor.addr at h1
      omega

/-- In a run of a state that meets the invariant, the current cursor's range lies in the buffer. -/
theorem Inv.cursorInBuffer {s : State} (h : Inv s) (hb : s.busy = true) : CursorInBuffer s :=
  (h.windows hb).inBuffer

/-- Moving the live cursor forward on its range keeps the windows. -/
theorem WindowsOk.forward {buflen n : Nat} : ∀ {fs : List Frame} {c : Cursor}, WindowsOk buflen fs c →
    c.pos + n ≤ c.len → WindowsOk buflen fs { c with pos := c.pos + n } := by
  intro fs
  induction fs with
  | nil => intro c h h'; exact ⟨h.1, h.2.1, h'⟩
  | cons f fs ih =>
    intro c h h'
    unfold WindowsOk at h ⊢
    split
    · rename_i hm; rw [hm] at h; exact ih h h'
    · rename_i hm; rw [hm] at h; exact ⟨h.1, h.2.1, h', h.2.2.2⟩

end Sys2Proof.Safety
end

