-- ==== Sys2Proof/Tests/Slice0.lean ====
section
/-! SUPPORT. Tests: ill-formed terms, words written out from the formats of spec/30_encoding.md, single steps with the
results of spec/95_test_vectors.md, and witnesses that the hypotheses of the obligations can be met. -/

namespace Sys2Proof.Tests

open Sys2Proof Sys2Proof.Machine Sys2Proof.Safety

/-! ## Helpers -/

/-- A bit string from its digits, as the spec writes it. -/
def bin (ds : List Nat) : List Bool := ds.map (· == 1)

/-- A transmission from its hex digits (20_memory.md R42). -/
def hex (ds : List Nat) : List Bool := ds.flatMap (natToBits 4)

/-- A state in a phase, with a transmission loaded and the cursor (BASE, LEN, POS). -/
def at_ (ds : List Nat) (ph : Phase) (base len pos : Nat) : State :=
  { State.reset with
    mem := packBits (hex ds), buflen := 4 * ds.length, cur := { base := base, len := len, pos := pos }, phase := ph }

/-- Whether a step answers a next state of which `p` is true. -/
def next (p : State → Bool) : Result → Bool
  | .next t => p t
  | .fault _ => false
  | .refused _ => false

/-- A literal child. -/
def lit (ver : Version) (v : Value) : Packet := .literal ver v

/-- A MODE 0 frame. -/
def frame0 (ver : Version) (k : Kind) (total : TotalLength) (parent : Cursor) (children : List Packet) : Frame :=
  { ver := ver, kind := k, mode := .l0 total parent, children := children }

/-- A MODE 1 frame. -/
def frame1 (ver : Version) (k : Kind) (cnt : PacketCount) (children : List Packet) : Frame :=
  { ver := ver, kind := k, mode := .l1 cnt, children := children }

/-- In NEXT, a completed OP0 operator on top of an otherwise empty stack, its window just consumed. -/
def doneL0 (k : Kind) (ver : Version) (len : TotalLength) (children : List Packet) : State :=
  { State.reset with
    buflen := 22 + len.toNat, cur := { base := 22, len := len.toNat, pos := len.toNat }, phase := .next,
    stk := [frame0 ver k len { base := 0, len := 22 + len.toNat, pos := 22 } children] }

/-- In NEXT, an OP1 operator without a child left to decode on top of an otherwise empty stack. -/
def doneL1 (k : Kind) (ver : Version) (children : List Packet) : State :=
  { State.reset with
    phase := .next, stk := [frame1 ver k 0 children] }

/-- Whether the run ends in DONE with this VSUM and VALUE. -/
def ends (vsum value : Nat) (t : State) : Bool :=
  decide (t.phase = .done) && decide (t.vsum = some vsum) && decide (t.value = some (BitVec.ofNat 64 value)) &&
    decide (t.everr = none)

/-! ## Well-formedness -/

theorem test_rdb_0_ill_formed : (Instr.rdb 0).wellFormed = false := by decide
theorem test_rdb_17_ill_formed : (Instr.rdb 17).wellFormed = false := by decide
theorem test_rdb_bounds_well_formed : (Instr.rdb 1).wellFormed = true ∧ (Instr.rdb 16).wellFormed = true := by decide
theorem test_others_well_formed :
    (Instr.exh 32767).wellFormed = true ∧ (Instr.subv 0).wellFormed = true ∧ (Instr.skip 32767).wellFormed = true ∧
      (Instr.lit 7).wellFormed = true ∧ (Instr.eqL1 7 2047).wellFormed = true := by decide

/-! ## Decoding: words written bit by bit from 30_encoding.md R62 to R66, R75, R76 -/

theorem test_decode_lit : decodeHeader (bin [1,1,0, 1,0,0]) = .ok (.lit 6, []) := by decide
theorem test_decode_sumL0 :
    decodeHeader (bin [1,1,0, 0,0,0, 0, 0,0,0,0,0,0,0,0,1,0,1,0,1,0,0]) = .ok (.sumL0 6 84, []) := by decide
theorem test_decode_sumL1 : decodeHeader (bin [1,1,0, 0,0,0, 1, 0,0,0,0,0,0,0,0,0,1,0]) = .ok (.sumL1 6 2, []) := by
  decide
theorem test_decode_prodL0 :
    decodeHeader (bin [0,0,0, 0,0,1, 0, 0,0,0,0,0,0,0,0,0,0,1,0,1,1,0]) = .ok (.prodL0 0 22, []) := by decide
theorem test_decode_prodL1 : decodeHeader (bin [1,1,0, 0,0,1, 1, 0,0,0,0,0,0,0,0,0,1,0]) = .ok (.prodL1 6 2, []) := by
  decide
theorem test_decode_minL0 :
    decodeHeader (bin [1,0,0, 0,1,0, 0, 1,0,0,0,0,0,0,0,0,1,0,0,0,0,1]) = .ok (.minL0 4 16417, []) := by decide
theorem test_decode_minL1 : decodeHeader (bin [0,0,1, 0,1,0, 1, 1,0,0,0,0,0,0,0,0,0,1]) = .ok (.minL1 1 1025, []) := by
  decide
theorem test_decode_maxL0 :
    decodeHeader (bin [0,1,1, 0,1,1, 0, 0,0,0,0,0,0,0,0,0,0,0,0,0,1,0]) = .ok (.maxL0 3 2, []) := by decide
theorem test_decode_maxL1 : decodeHeader (bin [1,1,1, 0,1,1, 1, 0,0,0,0,0,0,0,0,0,1,1]) = .ok (.maxL1 7 3, []) := by
  decide
theorem test_decode_gtL0 :
    decodeHeader (bin [0,1,0, 1,0,1, 0, 0,0,0,0,0,0,0,0,0,0,1,0,1,1,0]) = .ok (.gtL0 2 22, []) := by decide
theorem test_decode_gtL1 : decodeHeader (bin [1,1,1, 1,0,1, 1, 0,0,0,0,0,0,0,0,0,1,0]) = .ok (.gtL1 7 2, []) := by
  decide
theorem test_decode_ltL0 :
    decodeHeader (bin [0,0,1, 1,1,0, 0, 0,0,0,0,0,0,0,0,0,0,1,1,0,1,1]) = .ok (.ltL0 1 27, []) := by decide
theorem test_decode_ltL1 : decodeHeader (bin [0,0,0, 1,1,0, 1, 0,0,0,0,0,0,0,0,0,0,1]) = .ok (.ltL1 0 1, []) := by
  decide
theorem test_decode_eqL0 :
    decodeHeader (bin [1,0,0, 1,1,1, 0, 0,0,0,0,0,0,0,0,1,0,1,0,0,0,0]) = .ok (.eqL0 4 80, []) := by decide
theorem test_decode_eqL1 : decodeHeader (bin [0,1,0, 1,1,1, 1, 1,1,1,1,1,1,1,1,1,1,1]) = .ok (.eqL1 2 2047, []) := by
  decide
theorem test_decode_grpC : decodeGroup (bin [1, 0,1,1,1]) = .ok (.grpC 7, []) := by decide
theorem test_decode_grpF : decodeGroup (bin [0, 1,0,1,0]) = .ok (.grpF 10, []) := by decide
theorem test_decode_rdb : decodeCommand 0b00000000000010000#17 = .rdb 16 := by decide
theorem test_decode_exh : decodeCommand 0b01000000000000001#17 = .exh 1 := by decide
theorem test_decode_subv : decodeCommand 0b10000000000001010#17 = .subv 10 := by decide
theorem test_decode_skip : decodeCommand 0b11100000000000000#17 = .skip 16384 := by decide
theorem test_decode_start : decodeControl 0b01#2 = .ok .start := by decide
theorem test_decode_sreset :
    decodeControl 0b10#2 = .ok (.sreset false) ∧ decodeControl 0b11#2 = .ok (.sreset true) := by decide

/-- Bits that end inside a form, and a CTRL write of 0, decode to no instruction. -/
theorem test_decode_refuses :
    decodeHeader (bin [1,1,0, 1,0]) = .error .truncated ∧ decodeHeader (bin [0,0,0, 0,0,0]) = .error .truncated ∧
      decodeHeader (bin [0,0,0, 0,0,0, 1, 0,0,0,0,0,0,0,0,0,1]) = .error .truncated ∧
      decodeGroup (bin [0, 0,1,0]) = .error .truncated ∧ decodeControl 0 = .error .noCommand := by decide

/-! ## The opcode table's words (log 12) -/

theorem test_table_words :
    decodeTableWord 6 0x04 = some (.lit 0) ∧ decodeTableWord 8 0x00 = some (.sumL0 0 0) ∧
      decodeTableWord 8 0x0F = some (.eqL1 0 0) ∧ decodeTableWord 8 0x10 = some (.grpC 0) ∧
      decodeTableWord 5 0x00 = some (.grpF 0) ∧ decodeTableWord 24 0x00010 = some (.rdb 16) ∧
      decodeTableWord 24 0x08000 = some (.exh 0) ∧ decodeTableWord 24 0x10000 = some (.subv 0) ∧
      decodeTableWord 24 0x18000 = some (.skip 0) ∧ decodeTableWord 2 0x1 = some .start ∧
      decodeTableWord 2 0x2 = some (.sreset false) := by decide

/-- A placed header, a placed group, a placed command word and a placed control value are what the next step runs. -/
theorem test_placed_words_run :
    next (fun t => decide (t.tid = 4) && decide (t.phase = .lit)) (step (State.reset.withFetchWord 6 0x24)) = true ∧
      next (fun t => decide (t.tid = 6) && decide (t.phase = .oph)) (step (State.reset.withFetchWord 8 0x0D)) = true ∧
      next (fun t => decide (t.grp = 0x1A) && decide (t.acc = 10)) (step (State.reset.withFetchWord 8 0x1A)) = true ∧
      next (fun t => decide (t.response = some (.exhausted true))) (step (State.reset.withFetchWord 24 0x08000)) = true ∧
      next (fun t => decide (t.phase = .hdr)) (step (State.reset.withFetchWord 2 1)) = true := by decide

/-! ## Single steps, with the results of 95_test_vectors.md -/

/-- P1 step 1 (`D2FE28`): VER = 6, TID = 4, ACC = 0, POS 6. -/
theorem test_step_lit :
    next (fun t => decide (t.ver = 6) && decide (t.tid = 4) && decide (t.acc = 0) && decide (t.cur.pos = 6) &&
      decide (t.phase = .lit)) (step (at_ [13,2,15,14,2,8] .hdr 0 24 0)) = true := by decide

/-- P1 step 2: GRP = `10111`, ACC = 7, POS 11. -/
theorem test_step_grpC :
    next (fun t => decide (t.grp = 0b10111) && decide (t.acc = 7) && decide (t.cur.pos = 11) && decide (t.phase = .lit))
      (step (at_ [13,2,15,14,2,8] .lit 0 24 6)) = true := by decide

/-- V12: a seventeenth group after a leading 1 nibble is LiteralOverflow. -/
theorem test_step_grpC_overflow :
    next (fun t => decide (t.derrCode = 4) && decide (t.epos = 11) && decide (t.phase = .fault))
      (step { at_ [13,2,15,14,2,8] .lit 0 24 6 with acc := 0x1000000000000000 }) = true := by decide

/-- P1 step 4: `00101` takes ACC from 126 to 2021 and ends the run with ENDPOS 21, VSUM 6, VALUE 2021. -/
theorem test_step_grpF :
    next (fun t => ends 6 2021 t && decide (t.endpos = 21) && decide (t.tree = some (lit 6 2021)))
      (step { at_ [13,2,15,14,2,8] .lit 0 24 16 with ver := 6, tid := 4, acc := 126 }) = true := by decide

/-- V10: the sixteenth group `01111` gives 2^64 - 1. -/
theorem test_step_grpF_largest :
    next (ends 0 18446744073709551615)
      (step { at_ [7,8] .lit 0 8 0 with tid := 4, acc := 0x0FFFFFFFFFFFFFFF }) = true := by decide

/-- P2 steps 1 and 2 (`38006F45291200`): the header VER = 1, TID = 6; then `sub_view(27)` and the push. -/
theorem test_step_ltL0_header :
    next (fun t => decide (t.ver = 1) && decide (t.tid = 6) && decide (t.cur.pos = 6) && decide (t.phase = .oph))
      (step (at_ [3,8,0,0,6,15,4,5,2,9,1,2,0,0] .hdr 0 56 0)) = true := by decide
theorem test_step_ltL0_window :
    next (fun t => decide (t.tlen = 27) && decide (t.cur = { base := 22, len := 27, pos := 0 }) &&
      decide (t.stk = [frame0 1 .lessThan 27 { base := 0, len := 56, pos := 22 } []]) && decide (t.phase = .next))
      (step { at_ [3,8,0,0,6,15,4,5,2,9,1,2,0,0] .oph 0 56 6 with ver := 1, tid := 6 }) = true := by decide

/-- P3 steps 2 and 3 (`EE00D40C823060`): the push with CNT 3, then CNT 3 -> 2. -/
theorem test_step_maxL1_count :
    next (fun t => decide (t.pcnt = 3) && decide (t.cur = { base := 0, len := 56, pos := 18 }) &&
      decide (t.stk = [frame1 7 .max 3 []]) && decide (t.phase = .next))
      (step { at_ [14,14,0,0,13,4,0,12,8,2,3,0,6,0] .oph 0 56 6 with ver := 7, tid := 3 }) = true := by decide
theorem test_step_maxL1_next :
    next (fun t => decide (t.stk = [frame1 7 .max 2 []]) &&
      decide (t.phase = .hdr))
      (step { at_ [14,14,0,0,13,4,0,12,8,2,3,0,6,0] .next 0 56 18 with
        stk := [frame1 7 .max 3 []] }) = true := by decide

/-- E3 with MAXDEPTH 2: the third operator is DepthExceeded at 58. -/
theorem test_step_minL0_depth :
    next (fun t => decide (t.derrCode = 5) && decide (t.epos = 58) && decide (t.phase = .fault))
      (step { at_ [8,10,0,0,4,10,8,0,1,10,8,0,0,2,15,4,7,8] .oph 0 72 42 with
        params := { maxBits := none, maxDepth := some 2, exhSlack := 1 }, ver := 5, tid := 2,
        stk := [frame1 1 .min 0 [],
          frame1 4 .min 0 []] }) = true := by decide

/-- V4 (`200031428`): the window of 12 bits with 11 consumed is LengthMismatch at 33. -/
theorem test_step_sumL0_mismatch :
    next (fun t => decide (t.derrCode = 2) && decide (t.epos = 33) && decide (t.phase = .fault))
      (step { at_ [2,0,0,0,3,1,4,2,8] .next 22 12 11 with
        stk := [frame0 1 .sum 12 { base := 0, len := 36, pos := 22 } [lit 2 5]] }) = true := by decide

/-- V6 (`200191428`): `sub_view(100)` with 14 bits left is UnexpectedEnd at 22. -/
theorem test_step_sumL0_too_long :
    next (fun t => decide (t.derrCode = 1) && decide (t.epos = 22) && decide (t.phase = .fault))
      (step { at_ [2,0,0,1,9,1,4,2,8] .oph 0 36 6 with ver := 1, tid := 0 }) = true := by decide

/-- The last NEXT step of each kind in each framing: E5, K1 to K7, V18, V20 and the tree of V23. -/
theorem test_complete_sum :
    next (ends 14 3) (step (doneL1 .sum 6 [lit 6 1, lit 2 2])) = true ∧
      next (ends 6 7) (step (doneL0 .sum 1 22 [lit 2 3, lit 3 4])) = true := by decide
theorem test_complete_prod :
    next (ends 8 54) (step (doneL0 .product 0 22 [lit 5 6, lit 3 9])) = true ∧
      next (ends 1 9) (step (doneL1 .product 1 [lit 0 9])) = true := by decide
theorem test_complete_min :
    next (ends 15 7) (step (doneL0 .min 4 33 [lit 5 7, lit 6 8, lit 0 9])) = true ∧
      next (ends 1 9) (step (doneL1 .min 1 [lit 0 9])) = true := by decide
theorem test_complete_max :
    next (ends 11 9) (step (doneL1 .max 6 [lit 0 7, lit 5 8, lit 0 9])) = true ∧
      next (ends 14 3) (step (doneL0 .max 7 33 [lit 2 1, lit 4 2, lit 1 3])) = true := by decide
theorem test_complete_gt :
    next (ends 19 0) (step (doneL1 .greaterThan 7 [lit 7 5, lit 5 15])) = true ∧
      next (ends 4 1) (step (doneL0 .greaterThan 2 22 [lit 1 8, lit 1 7])) = true := by decide
theorem test_complete_lt :
    next (ends 9 1) (step (doneL0 .lessThan 1 27 [lit 6 10, lit 2 20])) = true ∧
      next (ends 4 0) (step (doneL1 .lessThan 2 [lit 1 7, lit 1 7])) = true := by decide
theorem test_complete_eq :
    next (ends 4 1) (step (doneL1 .equalTo 2 [lit 1 7, lit 1 7])) = true ∧
      next (ends 16 0) (step (doneL0 .equalTo 4 22 [lit 5 5, lit 7 15])) = true := by decide

/-- P2 step 10: the parent cursor is restored and skipped; ENDPOS 27 + 22 = 49. -/
theorem test_complete_restores_parent :
    next (fun t => decide (t.cur = { base := 0, len := 49, pos := 49 }) && decide (t.endpos = 49) && decide (t.stk = []))
      (step (doneL0 .lessThan 1 27 [lit 6 10, lit 2 20])) = true := by decide

/-- V7 (no child) and V14, V14b, V14c, V14d: the evaluation errors and the largest sum. -/
theorem test_eval_errors :
    next (fun t => decide (t.everrCode = 6) && decide (t.vsum = some 3) && decide (t.value = none) &&
      decide (t.phase = .done)) (step (doneL1 .max 3 [])) = true ∧
    next (fun t => decide (t.everrCode = 7)) (step (doneL1 .product 0 [lit 0 0x8000000000000000, lit 0 2])) = true ∧
    next (fun t => decide (t.everrCode = 7))
      (step (doneL1 .product 0 [lit 0 0x8000000000000000, lit 0 2, lit 0 0])) = true ∧
    next (ends 0 18446744073709551615) (step (doneL1 .sum 0 [lit 0 0xFFFFFFFFFFFFFFFE, lit 0 1])) = true ∧
    next (fun t => decide (t.everrCode = 7)) (step (doneL1 .sum 0 [lit 0 0xFFFFFFFFFFFFFFFF, lit 0 1])) = true := by
  decide

/-- V1, V2, V22, V22b, V22c: the stream ends inside a header. -/
theorem test_cut_headers :
    next (fun t => decide (t.derrCode = 1) && decide (t.epos = 0)) (step (at_ [] .hdr 0 0 0)) = true ∧
      next (fun t => decide (t.derrCode = 1) && decide (t.epos = 3) && decide (t.ver = 6))
        (step (at_ [13] .hdr 0 4 0)) = true ∧
      next (fun t => decide (t.derrCode = 1) && decide (t.epos = 6)) (step (at_ [0,0] .oph 0 6 6)) = true ∧
      next (fun t => decide (t.derrCode = 1) && decide (t.epos = 7) && decide (t.ltid = 1))
        (step (at_ [0,2] .oph 0 7 6)) = true ∧
      next (fun t => decide (t.derrCode = 1) && decide (t.epos = 7) && decide (t.cur.pos = 7))
        (step (at_ [0,2,0,0,8] .oph 0 17 6)) = true := by decide

/-- V3 (`D2FE2`): the third group needs 5 bits, 4 remain: UnexpectedEnd at 16. -/
theorem test_cut_group :
    next (fun t => decide (t.derrCode = 1) && decide (t.epos = 16) && decide (t.cur.pos = 16))
      (step (at_ [13,2,15,14,2] .lit 0 20 16)) = true := by decide

/-- B4, B6, B9 and B8, B17: reads of `D2FE28`. -/
theorem test_rdb_reads :
    next (fun t => decide (t.rdata = 54014) && decide (t.cur.pos = 16))
      (exec (.rdb 16) (at_ [13,2,15,14,2,8] .hdr 0 24 0)) = true ∧
      next (fun t => decide (t.response = some (.data 65064)) && decide (t.cur.pos = 24))
        (exec (.rdb 16) (at_ [13,2,15,14,2,8] .hdr 0 24 8)) = true ∧
      next (fun t => decide (t.rdata = 0) && decide (t.cur.pos = 24))
        (exec (.rdb 3) (at_ [13,2,15,14,2,8] .hdr 0 24 21)) = true := by decide
theorem test_rdb_raises :
    next (fun t => decide (t.derrCode = 1) && decide (t.epos = 21) && decide (t.cur.pos = 21))
      (exec (.rdb 4) (at_ [13,2,15,14,2,8] .hdr 0 24 21)) = true ∧
      next (fun t => decide (t.derrCode = 1) && decide (t.epos = 16) && decide (t.response = some .failed))
        (exec (.rdb 1) (at_ [13,2,15,14,2,8] .hdr 6 10 10)) = true := by decide

/-- CUR left by a run of 24 bits, a LOAD of 4 bits after it: RDB 3 reads where there is no bit (log 23). -/
theorem test_rdb_stale_cursor :
    next (fun t => decide (t.buflen = 4) && decide (t.cur = { base := 0, len := 24, pos := 21 }))
      (step { at_ [13,2,15,14,2,8] .done 0 24 21 with inputs := [.load (bin [1,0,1,0])] }) = true ∧
      step { at_ [10] .done 0 24 21 with inputs := [.command 3] } = .fault .outsideBuffer := ⟨by decide, rfl⟩

/-- B12 and B13. -/
theorem test_exh :
    next (fun t => decide (t.response = some (.exhausted false))) (exec (.exh 0) (at_ [13,2,15,14,2,8] .hdr 0 24 22)) =
        true ∧
      next (fun t => decide (t.response = some (.exhausted true))) (exec (.exh 9) (at_ [13,2,15,14,2,8] .hdr 0 24 23)) =
        true := by decide

/-- B18, B19, B20. -/
theorem test_subv :
    next (fun t => decide (t.response = some (.view { base := 6, len := 18, pos := 0 })) && decide (t.cur.pos = 6))
      (exec (.subv 18) (at_ [13,2,15,14,2,8] .hdr 0 24 6)) = true ∧
      next (fun t => decide (t.derrCode = 1) && decide (t.epos = 6))
        (exec (.subv 19) (at_ [13,2,15,14,2,8] .hdr 0 24 6)) = true := by decide

/-- B21 and B23. -/
theorem test_skip :
    next (fun t => decide (t.cur.pos = 16) && decide (t.rdata = 0)) (exec (.skip 10) (at_ [13,2,15,14,2,8] .hdr 0 24 6)) =
        true ∧
      next (fun t => decide (t.derrCode = 1) && decide (t.epos = 6))
        (exec (.skip 19) (at_ [13,2,15,14,2,8] .hdr 0 24 6)) = true := by decide

/-- A SKIP 10 and a SKIP 19 that arrive from outside do not disturb a run; outside a run SKIP 10 moves the cursor. -/
theorem test_command_in_run :
    next (fun t => decide (t = at_ [13,2,15,14,2,8] .hdr 0 24 6))
      (step { at_ [13,2,15,14,2,8] .hdr 0 24 6 with inputs := [.command 0x1800A] }) = true ∧
      next (fun t => decide (t = at_ [13,2,15,14,2,8] .hdr 0 24 6))
        (step { at_ [13,2,15,14,2,8] .hdr 0 24 6 with inputs := [.command 0x18013] }) = true ∧
      next (fun t => decide (t.cur.pos = 16))
        (step { at_ [13,2,15,14,2,8] .idle 0 24 6 with inputs := [.command 0x1800A] }) = true := by decide

/-- START from IDLE with a buffer loaded, and in BUSY. -/
theorem test_start :
    next (fun t => decide (t.cur = { base := 0, len := 24, pos := 0 }) && decide (t.phase = .hdr) && decide (t.stk = []))
      (exec .start (at_ [13,2,15,14,2,8] .idle 0 0 0)) = true ∧
      exec .start (at_ [13,2] .lit 0 8 6) = .next (at_ [13,2] .lit 0 8 6) := ⟨by decide, rfl⟩

/-- SRESET in the middle of a run. -/
theorem test_sreset :
    next (fun t => decide (t = State.reset)) (exec (.sreset true) (at_ [13,2,15,14,2,8] .lit 0 24 6)) = true := by decide

/-- LOAD, a register read, and LOAD in BUSY. -/
theorem test_host :
    next (fun t => decide (t.buflen = 4) && decide (t.mem = [(0, 0xA0)]))
      (step { State.reset with inputs := [.load (bin [1,0,1,0])] }) = true ∧
      next (fun t => decide (t.readData = .word 0x70))
        (step { State.reset with phase := .done, everr := some .evalOverflow, inputs := [.read .err] }) = true ∧
      next (fun t => decide (t.buflen = 8) && decide (t.inputs = []))
        (step { at_ [13,2] .hdr 0 8 0 with inputs := [.load []] }) = true := by decide

/-! ## Witnesses: the hypotheses of each obligation are met, each clause at a boundary -/

theorem room_of_none {s : State} (h : s.params.maxDepth = none) : RoomOnStack s := by
  intro m hm; rw [h] at hm; cases hm

theorem room_of_ne {s : State} {d : Nat} (h : s.params.maxDepth = some d) (hs : s.sp ≠ d) : RoomOnStack s := by
  intro m hm; rw [h] at hm; cases hm; exact hs

theorem no_room {s : State} {d : Nat} (h : s.params.maxDepth = some d) (hs : s.sp = d) : ¬ RoomOnStack s :=
  fun hr => hr d h hs

/-- A state with MAXDEPTH set. -/
def depth (d : Nat) (s : State) : State := { s with params := { s.params with maxDepth := some d } }

/-- At an operator's length-type id, the header read: the digits are the whole buffer. -/
def atOph (ds : List Nat) (len : Nat) (ver : Version) (k : Kind) : State :=
  { at_ ds .oph 0 len 6 with ver := ver, tid := k.typeId }

theorem witness_DecodeEncodeRoundTrip :
    encode (.maxL1 7 3) = .header (bin [1,1,1, 0,1,1, 1, 0,0,0,0,0,0,0,0,0,1,1]) ∧
      encode (.grpC 7) = .group (bin [1, 0,1,1,1]) := by decide

theorem witness_EncodeDecodeRoundTrip :
    decodeHeader (bin [1,1,1, 1,0,0, 1]) = .ok (.lit 7, [true]) ∧
      decodeGroup (bin [0, 1,0,1,0, 1]) = .ok (.grpF 10, [true]) ∧ decodeControl 3 = .ok (.sreset true) := by decide

theorem witness_EveryStreamWordDecodes : 22 ≤ (List.replicate 22 false).length ∧ 5 ≤ (bin [1,1,1,1,1]).length := by
  decide

theorem witness_StepRunsDecodedInstruction :
    ((at_ [15,0,0] .hdr 0 12 0).inputs = [] ∧ (at_ [15,0,0] .hdr 0 12 0).phase = .hdr ∧
      lookahead (at_ [15,0,0] .hdr 0 12 0) = some (hex [15,0,0]) ∧
      decodeHeader (hex [15,0,0]) = .ok (.lit 7, List.replicate 6 false)) ∧
    ((atOph [2,2,0,0,4] 20 1 .sum).phase = .oph ∧
      lookahead (atOph [2,2,0,0,4] 20 1 .sum) = some (bin [1, 0,0,0,0,0,0,0,0,0,0,1, 0,0]) ∧
      decodeHeader (fieldBits (atOph [2,2,0,0,4] 20 1 .sum).ver ++ fieldBits (atOph [2,2,0,0,4] 20 1 .sum).tid ++
        bin [1, 0,0,0,0,0,0,0,0,0,0,1, 0,0]) = .ok (.sumL1 1 1, [false, false])) ∧
    ((at_ [15,0,0] .lit 0 12 6).phase = .lit ∧
      lookahead (at_ [15,0,0] .lit 0 12 6) = some (bin [0,0,0,0,0,0]) ∧
      decodeGroup (bin [0,0,0,0,0,0]) = .ok (.grpF 0, [false])) ∧
    ((doneL1 .sum 1 []).phase = .next ∧ (doneL1 .sum 1 []).stk = frame1 1 .sum 0 [] :: []) ∧
    decodeControl 1 = .ok .start ∧ State.reset.busy = false := by decide

/-- Six bits left, two, and three. -/
theorem witness_HeaderStepFromBuffer :
    (CursorInBuffer (at_ [15,0] .hdr 0 8 2) ∧ 6 ≤ (at_ [15,0] .hdr 0 8 2).cur.rem) ∧
    (CursorInBuffer (at_ [15,0] .hdr 0 8 6) ∧ (at_ [15,0] .hdr 0 8 6).cur.rem < 3) ∧
    (CursorInBuffer (at_ [15,0] .hdr 0 8 5) ∧ 3 ≤ (at_ [15,0] .hdr 0 8 5).cur.rem ∧
      (at_ [15,0] .hdr 0 8 5).cur.rem < 6) ∧
    (at_ [15,0] .hdr 0 8 2).inputs = [] ∧ (at_ [15,0] .hdr 0 8 2).phase = .hdr := by
  unfold CursorInBuffer; decide

/-- `001 000 0 000000000000001` and one bit: 15 bits left, the length field whole but the window not, no room, room. -/
theorem witness_WindowStepFromBuffer :
    (atOph [2,0,0,0,0,4] 24 1 .sum).inputs = [] ∧ (atOph [2,0,0,0,0,4] 24 1 .sum).phase = .oph ∧
    (atOph [2,0,0,0,0,4] 24 1 .sum).tid = Kind.sum.typeId ∧
    readBit (atOph [2,0,0,0,0,4] 24 1 .sum).mem (atOph [2,0,0,0,0,4] 24 1 .sum).cur.addr = false ∧
    fieldAt (atOph [2,0,0,0,0,4] 24 1 .sum) 15 7 = 1 ∧
    (CursorInBuffer (atOph [2,0,0,0,0,4] 21 1 .sum) ∧ 1 ≤ (atOph [2,0,0,0,0,4] 21 1 .sum).cur.rem ∧
      (atOph [2,0,0,0,0,4] 21 1 .sum).cur.rem < 16) ∧
    (CursorInBuffer (atOph [2,0,0,0,0,4] 22 1 .sum) ∧ 16 ≤ (atOph [2,0,0,0,0,4] 22 1 .sum).cur.rem ∧
      (atOph [2,0,0,0,0,4] 22 1 .sum).cur.rem < 16 + 1) ∧
    (CursorInBuffer (atOph [2,0,0,0,0,4] 23 1 .sum) ∧ 16 + 1 ≤ (atOph [2,0,0,0,0,4] 23 1 .sum).cur.rem) ∧
    ¬ RoomOnStack (depth 0 (atOph [2,0,0,0,0,4] 23 1 .sum)) ∧ RoomOnStack (atOph [2,0,0,0,0,4] 23 1 .sum) ∧
    RoomOnStack (depth 1 (atOph [2,0,0,0,0,4] 23 1 .sum)) := by
  refine ⟨rfl, rfl, rfl, by decide, by decide, ?_, ?_, ?_, no_room (d := 0) rfl rfl, room_of_none rfl,
    room_of_ne (d := 1) rfl (by decide)⟩ <;> (unfold CursorInBuffer; decide)

/-- `001 000 1 00000000001`: 11 bits left, 12 bits left without and with room. -/
theorem witness_CountStepFromBuffer :
    (atOph [2,2,0,0,4] 20 1 .sum).inputs = [] ∧ (atOph [2,2,0,0,4] 20 1 .sum).phase = .oph ∧
    (atOph [2,2,0,0,4] 20 1 .sum).tid = Kind.sum.typeId ∧
    readBit (atOph [2,2,0,0,4] 20 1 .sum).mem (atOph [2,2,0,0,4] 20 1 .sum).cur.addr = true ∧
    (CursorInBuffer (atOph [2,2,0,0,4] 17 1 .sum) ∧ 1 ≤ (atOph [2,2,0,0,4] 17 1 .sum).cur.rem ∧
      (atOph [2,2,0,0,4] 17 1 .sum).cur.rem < 12) ∧
    (CursorInBuffer (atOph [2,2,0,0,4] 18 1 .sum) ∧ 12 ≤ (atOph [2,2,0,0,4] 18 1 .sum).cur.rem) ∧
    ¬ RoomOnStack (depth 0 (atOph [2,2,0,0,4] 18 1 .sum)) ∧ RoomOnStack (depth 1 (atOph [2,2,0,0,4] 18 1 .sum)) := by
  refine ⟨rfl, rfl, rfl, by decide, ?_, ?_, no_room (d := 0) rfl rfl, room_of_ne (d := 1) rfl (by decide)⟩ <;>
    (unfold CursorInBuffer; decide)

theorem witness_LengthTypeIdMissing :
    (atOph [0,0] 6 0 .sum).inputs = [] ∧ (atOph [0,0] 6 0 .sum).phase = .oph ∧
      (atOph [0,0] 6 0 .sum).tid = Kind.sum.typeId ∧ (atOph [0,0] 6 0 .sum).cur.rem = 0 := by decide

/-- Four bits left; five with ACC[63:60] = 1; five with `10111`; five with `00101`. -/
theorem witness_GroupStepFromBuffer :
    (CursorInBuffer (at_ [13,2,15,14,2,8] .lit 0 24 20) ∧ (at_ [13,2,15,14,2,8] .lit 0 24 20).cur.rem < 5) ∧
    (CursorInBuffer (at_ [13,2,15,14,2,8] .lit 0 24 19) ∧ 5 ≤ (at_ [13,2,15,14,2,8] .lit 0 24 19).cur.rem) ∧
    BitVec.extractLsb' 60 4 (0x1000000000000000 : Value) ≠ 0 ∧
    BitVec.extractLsb' 60 4 (0x0FFFFFFFFFFFFFFF : Value) = 0 ∧
    (fieldAt (at_ [13,2,15,14,2,8] .lit 0 24 6) 5 6).getLsbD 4 = true ∧
    (fieldAt (at_ [13,2,15,14,2,8] .lit 0 24 16) 5 16).getLsbD 4 = false := by
  unfold CursorInBuffer; decide

/-- In MODE 0 with the default slack of 1: two bits left; one left of 12 consumed 11; all consumed, the parent with and
without the room to skip. In MODE 1: count 0 and 1. -/
theorem witness_NextStepDecides :
    ((at_ [] .next 22 12 10).params.exhSlack < (at_ [] .next 22 12 10).cur.rem) ∧
    ((at_ [] .next 22 12 11).cur.rem ≤ (at_ [] .next 22 12 11).params.exhSlack ∧
      (at_ [] .next 22 12 11).cur.pos ≠ (12 : TotalLength).toNat) ∧
    ((at_ [] .next 22 12 12).cur.rem ≤ (at_ [] .next 22 12 12).params.exhSlack ∧
      (at_ [] .next 22 12 12).cur.pos = (12 : TotalLength).toNat ∧
      (12 : TotalLength).toNat ≤ Cursor.rem { base := 0, len := 34, pos := 22 } ∧
      Cursor.rem { base := 0, len := 33, pos := 22 } < (12 : TotalLength).toNat) ∧
    (frame1 7 .max 0 []).mode = .l1 0 ∧ ((frame1 7 .max 1 []).mode = .l1 1 ∧ (1 : PacketCount) ≠ 0) ∧
    (doneL0 .sum 1 12 []).inputs = [] ∧ (doneL0 .sum 1 12 []).phase = .next := by decide

theorem witness_CompletionOfPacket :
    State.reset.stk = [] ∧ (doneL1 .sum 1 []).stk = frame1 1 .sum 0 [] :: [] := by decide

theorem witness_FoldsFillResults :
    State.reset.stk = [] ∧ (lit 1 (BitVec.allOnes 64)).evaluate = .ok (2 ^ 64 - 1) ∧
      (Packet.operator 3 .max .nil).evaluate = .err .evalMalformed := by decide

theorem witness_FaultEntryWrites : (at_ [15,0,0] .lit 0 12 6).inputs = [] := rfl

theorem witness_LiteralHeaderCompletes :
    (at_ [15,0] .hdr 0 8 2).phase = .hdr ∧ 6 ≤ (at_ [15,0] .hdr 0 8 2).cur.rem := by decide

theorem witness_OperatorHeadersComplete :
    (at_ [3,8] .hdr 0 8 0).phase = .hdr ∧ 6 ≤ (at_ [3,8] .hdr 0 8 0).cur.rem := by decide

theorem witness_WindowOperatorsOpen :
    (atOph [2,0,0,0,0,4] 23 1 .sum).phase = .oph ∧ (atOph [2,0,0,0,0,4] 23 1 .sum).ver = 1 ∧
      (atOph [2,0,0,0,0,4] 23 1 .sum).tid = Kind.sum.typeId ∧
      16 + (1 : TotalLength).toNat ≤ (atOph [2,0,0,0,0,4] 23 1 .sum).cur.rem ∧
      RoomOnStack (atOph [2,0,0,0,0,4] 23 1 .sum) :=
  ⟨rfl, rfl, rfl, by decide, room_of_none rfl⟩

theorem witness_CountOperatorsOpen :
    (atOph [2,2,0,0,4] 18 1 .sum).phase = .oph ∧ (atOph [2,2,0,0,4] 18 1 .sum).ver = 1 ∧
      (atOph [2,2,0,0,4] 18 1 .sum).tid = Kind.sum.typeId ∧ 12 ≤ (atOph [2,2,0,0,4] 18 1 .sum).cur.rem ∧
      RoomOnStack (depth 1 (atOph [2,2,0,0,4] 18 1 .sum)) :=
  ⟨rfl, rfl, rfl, by decide, room_of_ne (d := 1) rfl (by decide)⟩

theorem witness_OperatorsReturnTheirPacket :
    ((doneL0 .lessThan 1 27 [lit 6 10, lit 2 20]).phase = .next ∧
      (doneL0 .lessThan 1 27 [lit 6 10, lit 2 20]).stk =
        frame0 1 .lessThan 27 { base := 0, len := 49, pos := 22 } [lit 6 10, lit 2 20] :: [] ∧
      (doneL0 .lessThan 1 27 []).cur.rem ≤ (doneL0 .lessThan 1 27 []).params.exhSlack ∧
      (doneL0 .lessThan 1 27 []).cur.pos = (27 : TotalLength).toNat ∧
      (27 : TotalLength).toNat ≤ Cursor.rem { base := 0, len := 49, pos := 22 }) ∧
    (doneL1 .equalTo 2 [lit 1 7, lit 1 7]).stk = frame1 2 .equalTo 0 [lit 1 7, lit 1 7] :: [] := by decide

theorem witness_GroupsComplete :
    (at_ [13,2,15,14,2,8] .lit 0 24 19).phase = .lit ∧ 5 ≤ (at_ [13,2,15,14,2,8] .lit 0 24 19).cur.rem ∧
      (at_ [13,2,15,14,2,8] .lit 0 24 19).acc.extractLsb' 60 4 = 0 := by decide

theorem witness_AccumulatorTakesNibble : BitVec.extractLsb' 60 4 (0x0FFFFFFFFFFFFFFF : Value) = 0 := by decide

theorem witness_ReadBitsCompletes :
    1 ≤ (16 : CommandArg).toNat ∧ (16 : CommandArg).toNat ≤ 16 ∧ CursorInBuffer (at_ [13,2,15,14,2,8] .hdr 0 24 8) ∧
      (16 : CommandArg).toNat ≤ (at_ [13,2,15,14,2,8] .hdr 0 24 8).cur.rem := by
  unfold CursorInBuffer; decide

theorem witness_ReadWidthRefused : (0 : CommandArg).toNat = 0 ∧ 16 < (17 : CommandArg).toNat := by decide

theorem witness_SubViewCompletes :
    (18 : CommandArg).toNat ≤ (at_ [13,2,15,14,2,8] .hdr 0 24 6).cur.len - (at_ [13,2,15,14,2,8] .hdr 0 24 6).cur.pos := by
  decide

theorem witness_SkipCompletes :
    (18 : CommandArg).toNat ≤ (at_ [13,2,15,14,2,8] .hdr 0 24 6).cur.len - (at_ [13,2,15,14,2,8] .hdr 0 24 6).cur.pos := by
  decide

/-- In a run and outside one; SUBV and SKIP beyond the widths RDB has. -/
theorem witness_CursorCommandsRaise :
    ((at_ [13,2,15,14,2,8] .hdr 0 24 21).cur.rem < (4 : CommandArg).toNat ∧
      (at_ [13,2,15,14,2,8] .hdr 0 24 21).busy = true ∧ (4 : CommandArg).toNat ≤ 16) ∧
    (State.reset.cur.rem < (1 : CommandArg).toNat ∧ State.reset.busy = false) ∧
    (at_ [13,2,15,14,2,8] .hdr 0 24 6).cur.rem < (19 : CommandArg).toNat := by decide

theorem witness_StartBeginsRun :
    (at_ [15,0,0] .hdr 0 12 0).busy = true ∧ State.reset.busy = false ∧ (at_ [15,0,0] .done 0 12 11).busy = false := by
  decide

theorem witness_ResetLeavesResetState :
    { at_ [15,0,0] .lit 0 12 6 with inputs := [.reset] }.inputs = .reset :: [] := by decide

theorem witness_FormsOutOfPlaceRefused :
    State.reset.phase ≠ .hdr ∧ State.reset.phase ≠ .lit ∧ State.reset.phase ≠ .oph ∧ State.reset.phase ≠ .next ∧
      (atOph [0,0] 8 1 .sum).phase = .oph ∧ (atOph [0,0] 8 1 .sum).ver ≠ 2 ∧
      (atOph [0,0] 8 1 .sum).tid ≠ Kind.product.typeId := by decide

/-- A LOAD of exactly MAXBITS bits. -/
theorem witness_LoadReplacesBuffer :
    State.reset.busy = false ∧ (∀ m, some 4 = some m → (bin [1,0,1,0]).length ≤ m) :=
  ⟨by decide, fun m h => by cases h; decide⟩

theorem witness_RefusedHostActions :
    (at_ [15,0,0] .hdr 0 12 0).busy = true ∧ (∃ m, some 3 = some m ∧ m < (bin [1,0,1,0]).length) ∧
      { State.reset with inputs := [.load []] }.inputs = .load [] :: [] ∧
      { State.reset with inputs := [.writeReadOnly .vsum] }.inputs = .writeReadOnly .vsum :: [] ∧
      { State.reset with inputs := [.control 0] }.inputs = .control 0 :: [] ∧
      (Input.command 0x18001 ≠ .pause ∧ Input.command 0x18001 ≠ .reset ∧
        ∀ v b, Input.command 0x18001 = .control v → decodeControl v ≠ .ok (.sreset b)) ∧
      ∀ v b, Input.control 1 = .control v → decodeControl v ≠ .ok (.sreset b) :=
  ⟨by decide, ⟨3, rfl, by decide⟩, rfl, rfl, rfl, ⟨by decide, by decide, fun _ _ h => by cases h⟩,
    fun _ b h => by cases h; cases b <;> decide⟩

theorem witness_HostReadsRegisters :
    { State.reset with inputs := [.read .vsum] }.inputs = .read .vsum :: [] ∧ State.reset.phase ≠ .done ∧
      { State.reset with everr := some .evalMalformed }.everr ≠ none ∧
      (finishRun (lit 6 2021) State.reset).phase = .done ∧ (finishRun (lit 6 2021) State.reset).vsum = some 6 ∧
      (finishRun (lit 6 2021) State.reset).everr = none ∧
      (finishRun (lit 6 2021) State.reset).value = some 2021 := by decide

theorem witness_InstructionsNeverStore :
    (∃ t, exec (.lit 7) (at_ [15,0,0] .hdr 0 12 0) = .next t) ∧ (∃ t, exec .start (at_ [15,0,0] .idle 0 0 0) = .next t) ∧
      (∃ t, exec (.skip 6) (at_ [15,0,0] .hdr 0 12 0) = .next t) ∧ ∀ b, Instr.lit 7 ≠ .sreset b :=
  ⟨⟨_, rfl⟩, ⟨_, rfl⟩, ⟨_, rfl⟩, fun _ => by simp⟩

/-- In each of the four phases a form answers a next state with the run going on; and an encoded header and group. -/
theorem witness_SequencerFrame :
    (∃ t, exec (.lit 7) (at_ [15,0,0] .hdr 0 12 0) = .next t ∧ t.phase = .lit) ∧
    (∃ t, exec (.sumL1 1 1) (atOph [2,2,0,0,4] 20 1 .sum) = .next t ∧ t.phase = .next) ∧
    (∃ t, exec (.grpC 7) (at_ [13,2,15,14,2,8] .lit 0 24 6) = .next t ∧ t.phase = .lit) ∧
    (∃ t, exec (.maxL1 7 3) { at_ [] .next 0 56 18 with stk := [frame1 7 .max 3 []] } = .next t ∧ t.phase = .hdr) ∧
    (∃ bits, encode (.lit 7) = .header bits) ∧ ∃ bits, encode (.grpC 7) = .group bits :=
  ⟨⟨_, rfl, rfl⟩, ⟨_, rfl, rfl⟩, ⟨_, rfl, rfl⟩, ⟨_, rfl, rfl⟩, ⟨_, rfl⟩, ⟨_, rfl⟩⟩

theorem witness_ReadSplit :
    1 ≤ (3 : CommandArg).toNat ∧ 1 ≤ (13 : CommandArg).toNat ∧
      (16 : CommandArg).toNat = (3 : CommandArg).toNat + (13 : CommandArg).toNat ∧ (16 : CommandArg).toNat ≤ 16 ∧
      CursorInBuffer (at_ [13,2,15,14,2,8] .hdr 0 24 8) ∧
      (16 : CommandArg).toNat ≤ (at_ [13,2,15,14,2,8] .hdr 0 24 8).cur.rem := by
  unfold CursorInBuffer; decide

theorem witness_ExhaustedReadsRaise :
    (at_ [13,2,15,14,2,8] .hdr 0 24 23).params.exhSlack = 1 ∧
      (at_ [13,2,15,14,2,8] .hdr 0 24 23).cur.exhausted (at_ [13,2,15,14,2,8] .hdr 0 24 23).params.exhSlack = true ∧
      2 ≤ (2 : CommandArg).toNat ∧ (2 : CommandArg).toNat ≤ 16 ∧ (at_ [13,2,15,14,2,8] .hdr 0 24 23).busy = true := by
  decide

/-- A run without a frame meets the invariant: any buffer, any position, in HDR, in LIT, and in OPH behind a header. -/
theorem inv_flat (bits : List Bool) (pos : Nat) (ph : Phase) (tid : TypeId) (h : pos ≤ bits.length)
    (hp : ph = .hdr ∨ (ph = .lit ∧ tid = literalTypeId) ∨ (ph = .oph ∧ tid ≠ literalTypeId ∧ 6 ≤ pos)) :
    Inv { State.reset with
      mem := packBits bits, buflen := bits.length, cur := { base := 0, len := bits.length, pos := pos }, tid := tid,
      phase := ph } := by
  refine ⟨⟨packBits_wf bits, fun i hi => ?_, by simp [State.reset, Config.defaults]⟩, fun _ => ⟨rfl, rfl, h⟩, fun _ => ?_,
    fun _ => ?_, ?_⟩
  · rw [readBit_packBits]; exact List.getD_eq_default _ _ hi
  · rcases hp with rfl | ⟨rfl, -⟩ | ⟨rfl, -, h6⟩ <;>
      (simp [DepthOk, State.reset, Config.defaults, State.sp, Cursor.addr]; try omega)
  · rcases hp with rfl | ⟨rfl, ht⟩ | ⟨rfl, ht, -⟩ <;> simp_all [PhaseOk]
  · rcases hp with rfl | ⟨rfl, -⟩ | ⟨rfl, -⟩ <;> simp [ResultsOk, State.reset]

/-- In NEXT under an OP0 frame whose window is consumed, the invariant holds. -/
theorem inv_doneL0 (k : Kind) (ver : Version) (len : TotalLength) (children : List Packet) :
    Inv (doneL0 k ver len children) := by
  refine ⟨⟨rfl, fun i _ => readBit_nil i, by simp [doneL0, State.reset, Config.defaults]⟩, fun _ => ?_, fun _ => ?_,
    fun _ => ?_, ?_⟩
  · simp [doneL0, frame0, WindowsOk, Cursor.addr]
  · simp [doneL0, DepthOk, State.reset, Config.defaults, State.sp, Cursor.addr]
    omega
  · simp [doneL0, PhaseOk]
  · simp [doneL0, ResultsOk, State.reset]

/-- The last group of `F00`, and the place where its first would be missing. -/
def lastGroup : State :=
  { State.reset with
    mem := packBits (hex [15,0,0]), buflen := 12, cur := { base := 0, len := 12, pos := 6 }, tid := literalTypeId,
    phase := .lit }
def missingGroup : State :=
  { State.reset with
    mem := packBits (hex [15,0]), buflen := 8, cur := { base := 0, len := 8, pos := 6 }, tid := literalTypeId,
    phase := .lit }

theorem inv_lastGroup : Inv lastGroup :=
  inv_flat (hex [15,0,0]) 6 .lit literalTypeId (by decide) (.inr (.inl ⟨rfl, rfl⟩))
theorem inv_missingGroup : Inv missingGroup :=
  inv_flat (hex [15,0]) 6 .lit literalTypeId (by decide) (.inr (.inl ⟨rfl, rfl⟩))

theorem witness_StepKeepsInvariant :
    Inv lastGroup ∧ (∃ t, step lastGroup = .next t ∧ t.phase = .done) ∧ Inv (doneL0 .sum 1 22 []) ∧
      ∃ t, step (doneL0 .sum 1 22 []) = .next t :=
  ⟨inv_lastGroup, ⟨_, rfl, rfl⟩, inv_doneL0 .., ⟨_, rfl⟩⟩

theorem witness_SequencerAlwaysSteps : Inv lastGroup ∧ lastGroup.inputs = [] := ⟨inv_lastGroup, rfl⟩

/-- One frame in a buffer of 44 bits, MAXDEPTH unbounded; the reset stack in an empty buffer. -/
theorem witness_StackDepthBound :
    Inv (doneL0 .sum 1 22 []) ∧ (doneL0 .sum 1 22 []).busy = true ∧ (doneL0 .sum 1 22 []).sp = 1 :=
  ⟨inv_doneL0 .., by decide, rfl⟩

theorem witness_AddressNeverDecreases :
    Inv (doneL0 .sum 1 22 []) ∧ (doneL0 .sum 1 22 []).busy = true ∧ (doneL0 .sum 1 22 []).inputs = [] ∧
      ∃ t, step (doneL0 .sum 1 22 []) = .next t :=
  ⟨inv_doneL0 .., by decide, rfl, ⟨_, rfl⟩⟩

/-- A run that ends in DONE in this step, and one that ends in FAULT. -/
theorem witness_ResultsOfEndedRun :
    (Inv lastGroup ∧ lastGroup.busy = true ∧ lastGroup.inputs = [] ∧ ∃ t, step lastGroup = .next t ∧ t.phase = .done) ∧
    (Inv missingGroup ∧ missingGroup.busy = true ∧ missingGroup.inputs = [] ∧
      ∃ t, step missingGroup = .next t ∧ t.phase = .fault) :=
  ⟨⟨inv_lastGroup, by decide, rfl, ⟨_, rfl, rfl⟩⟩, ⟨inv_missingGroup, by decide, rfl, ⟨_, rfl, rfl⟩⟩⟩

theorem witness_EndedRunsStay :
    State.reset.busy = false ∧ State.reset.inputs = [] ∧ (at_ [] .done 0 0 0).busy = false ∧
      (at_ [] .fault 0 0 0).busy = false := by decide

/-- `F00` (V19) loaded and started; it ends after two steps with ENDPOS 11. -/
theorem started_F00 : Started (at_ [15,0,0] .hdr 0 12 0) := by unfold Started rootCursor; decide

theorem witness_EveryRunEnds :
    Started (at_ [15,0,0] .hdr 0 12 0) ∧ next (fun t => decide (t.phase = .done) && decide (t.endpos = 11))
      (Sys2Proof.core.run 2 (at_ [15,0,0] .hdr 0 12 0)) = true := ⟨started_F00, by decide⟩

/-- V19 and V1: a buffer that decodes, and one that raises. -/
theorem witness_StepMachineEqualsRecursion :
    Started (at_ [15,0,0] .hdr 0 12 0) ∧ Started (at_ [] .hdr 0 0 0) ∧
      refRun State.reset.params (packBits (hex [15,0,0])) 12 = .ok (lit 7 0) { base := 0, len := 12, pos := 11 } ∧
      refRun State.reset.params [] 0 = .raised .unexpectedEnd 0 :=
  ⟨started_F00, by unfold Started rootCursor; decide, by decide, by decide⟩

/-- The same buffer in IDLE after reset and in FAULT with other working registers. -/
theorem witness_RunDependsOnBufferAlone :
    (at_ [15,0,0] .idle 0 0 0).busy = false ∧ { at_ [15,0,0] .fault 0 12 3 with ver := 5, acc := 9 }.busy = false ∧
      (∃ a t, exec .start (at_ [15,0,0] .idle 0 0 0) = .next a ∧ Sys2Proof.core.run 1 a = .next t) ∧
      ∃ b, exec .start { at_ [15,0,0] .fault 0 12 3 with ver := 5, acc := 9 } = .next b :=
  ⟨by decide, by decide, ⟨_, _, rfl, rfl⟩, ⟨_, rfl⟩⟩

/-- `F00` ends with ENDPOS 11; `F01` agrees with it on the first 11 bits. -/
theorem witness_PaddingIndependence :
    Started (at_ [15,0,0] .hdr 0 12 0) ∧ Started (at_ [15,0,1] .hdr 0 12 0) ∧
      next (fun t => decide (t.phase = .done) && decide (t.endpos = 11))
        (Sys2Proof.core.run 2 (at_ [15,0,0] .hdr 0 12 0)) = true ∧
      11 ≤ (at_ [15,0,1] .hdr 0 12 0).buflen ∧
      ∀ i, i < 11 → readBit (at_ [15,0,1] .hdr 0 12 0).mem i = readBit (at_ [15,0,0] .hdr 0 12 0).mem i :=
  ⟨started_F00, by unfold Started rootCursor; decide, by decide, by decide, by decide⟩

theorem witness_LeftmostChildErrorDecides :
    (∀ q ∈ [lit 0 1], ∃ v, q.evaluate = .ok v) ∧ (Packet.operator 1 .sum .nil).evaluate = .err .evalMalformed :=
  ⟨fun q hq => by obtain rfl := List.mem_singleton.mp hq; exact ⟨1, rfl⟩, by decide⟩

/-- One value, and two that overflow. -/
theorem witness_SumOfChildren :
    ([5] : List Nat) ≠ [] ∧ [lit 0 5].map Packet.evaluate = [5].map EvalResult.ok ∧
      [lit 0 0xFFFFFFFFFFFFFFFF, lit 0 1].map Packet.evaluate = [2 ^ 64 - 1, 1].map EvalResult.ok := by decide

/-- Partial products that stay below 2^64, and one that does not (V14b). -/
theorem witness_ProductOfChildren :
    ([lit 0 6, lit 0 9].map Packet.evaluate = [6, 9].map EvalResult.ok ∧
      ∀ n, 1 ≤ n → (([6, 9] : List Nat).take n).prod < 2 ^ 64) ∧
    ([lit 0 0x8000000000000000, lit 0 2, lit 0 0].map Packet.evaluate = [2 ^ 63, 2, 0].map EvalResult.ok ∧
      ∃ n, 1 ≤ n ∧ 2 ^ 64 ≤ (([2 ^ 63, 2, 0] : List Nat).take n).prod) := by
  refine ⟨⟨by decide, fun n hn => ?_⟩, by decide, 2, by decide, by decide⟩
  match n with
  | 0 => omega
  | 1 => decide
  | n + 2 => simp

theorem witness_MinMaxOfChildren :
    ([7, 8, 9] : List Nat) ≠ [] ∧ [lit 5 7, lit 6 8, lit 0 9].map Packet.evaluate = [7, 8, 9].map EvalResult.ok := by
  decide

theorem witness_ComparisonsOfTwoChildren : (lit 6 10).evaluate = .ok 10 ∧ (lit 2 20).evaluate = .ok 20 := by decide

/-- V7, V13, V13b: no child, three children, one child. -/
theorem witness_IllFormedOperatorsMalformed :
    (∀ q ∈ [lit 0 3], ∃ v, q.evaluate = .ok v) ∧ [lit 0 3].length ≠ 2 ∧ [lit 0 3, lit 0 2, lit 0 1].length ≠ 2 :=
  ⟨fun q hq => by obtain rfl := List.mem_singleton.mp hq; exact ⟨3, rfl⟩, by decide, by decide⟩

theorem witness_WellFormedTreesEvaluate :
    (Packet.operator 1 .lessThan (Packets.ofList [lit 6 10, lit 2 20])).wellFormed = true ∧
      (lit 0 (BitVec.allOnes 64)).evaluate = .ok (2 ^ 64 - 1) := by decide

/-- E1 and V10: three groups, and sixteen groups of the largest value. -/
theorem witness_LiteralRoundTrip :
    (([7, 14] : List Nibble) ++ [5]).foldl (fun (v : Nat) (d : Nibble) => 16 * v + d.toNat) 0 = 2021 ∧
      ((List.replicate 15 15 : List Nibble) ++ [15]).foldl (fun (v : Nat) (d : Nibble) => 16 * v + d.toNat) 0 < 2 ^ 64 ∧
      ([7, 14] : List Nibble).length + 2 ≤ 4 := by decide

end Sys2Proof.Tests
end

section
/-! PROOFS of the family 10_state.md, part 1: the fold count_versions, and what a run keeps of cursor, stack and
PHASE whatever the buffer holds. -/

namespace Sys2Proof.Machine

open Sys2Proof Sys2Proof.Safety

/-! ## count_versions (42_evaluator.md R141) -/

mutual

/-- A packet's own version adds at most 7, its children what the bound on the list gives. -/
theorem Packet.countVersions_le : ∀ p : Packet, p.countVersions ≤ 7 * p.size
  | .literal ver _ => by
    have hver := ver.isLt
    simp only [Packet.countVersions, Packet.size]; omega
  | .operator ver _ children => by
    have hver := ver.isLt
    have hchildren := children.countVersions_le
    simp only [Packet.countVersions, Packet.size]; omega

theorem Packets.countVersions_le : ∀ ps : Packets, ps.countVersions ≤ 7 * ps.size
  | .nil => by simp [Packets.countVersions]
  | .cons p ps => by
    have hfirst := p.countVersions_le
    have hrest := ps.countVersions_le
    simp only [Packets.countVersions, Packets.size]; omega

end

/-- Settles O52: the bound on one packet, by induction over the tree. -/
theorem versionSumBound : Obligations.VersionSumBound := Packet.countVersions_le

/-! ## What PHASE plays no part in: cursor and stack -/

/-- The cursor and the stack of a run, as the invariant binds them without regard to PHASE: the windows, the capacity
of the stack, and 18 bits read for every open operator. -/
def StackOk (s : State) : Prop :=
  WindowsOk s.buflen s.stk s.cur ∧ (∀ m, s.params.maxDepth = some m → s.sp ≤ m) ∧ 18 * s.sp ≤ s.cur.addr

@[simp] theorem stackOk_setVer (v : Version) (s : State) : StackOk (setVer v s) ↔ StackOk s := Iff.rfl
@[simp] theorem stackOk_setTid (v : TypeId) (s : State) : StackOk (setTid v s) ↔ StackOk s := Iff.rfl
@[simp] theorem stackOk_setLtid (v : BitVec 1) (s : State) : StackOk (setLtid v s) ↔ StackOk s := Iff.rfl
@[simp] theorem stackOk_setTlen (v : TotalLength) (s : State) : StackOk (setTlen v s) ↔ StackOk s := Iff.rfl
@[simp] theorem stackOk_setPcnt (v : PacketCount) (s : State) : StackOk (setPcnt v s) ↔ StackOk s := Iff.rfl
@[simp] theorem stackOk_setGrp (v : BitVec 5) (s : State) : StackOk (setGrp v s) ↔ StackOk s := Iff.rfl
@[simp] theorem stackOk_setAcc (v : Value) (s : State) : StackOk (setAcc v s) ↔ StackOk s := Iff.rfl
@[simp] theorem stackOk_setPhase (v : Phase) (s : State) : StackOk (setPhase v s) ↔ StackOk s := Iff.rfl

theorem Cursor.addr_forward (c : Cursor) (n : Nat) : Cursor.addr { c with pos := c.pos + n } = c.addr + n := by
  simp only [Cursor.addr]; omega

/-- A successful read keeps cursor and stack in order. -/
theorem StackOk.advance {s : State} {n : Nat} (h : StackOk s) (v : BitVec 16) (hn : n ≤ s.cur.rem) :
    StackOk (advance n v s) := by
  obtain ⟨hw, hm, hd⟩ := h
  obtain ⟨hpos, -⟩ := hw.inBuffer
  refine ⟨hw.forward (by simp only [Cursor.rem] at hn; omega), hm, ?_⟩
  rw [addr_advance]
  exact Nat.le_add_right_of_le hd

theorem stackOk_afterHeader {s : State} (h : StackOk s) (v : Version) (t : TypeId) (h6 : 6 ≤ s.cur.rem) :
    StackOk (afterHeader v t s) := by
  have hver : StackOk (afterVersion v s) := h.advance (v.setWidth 16) (by omega)
  refine hver.advance (n := 3) (t.setWidth 16) ?_
  rw [afterVersion, setVer_cur, rem_advance]; omega

theorem stackOk_afterLengthType {s : State} (h : StackOk s) (l : BitVec 1) (h1 : 1 ≤ s.cur.rem) :
    StackOk (afterLengthType l s) := h.advance (l.setWidth 16) h1

theorem rem_afterLengthType (l : BitVec 1) (s : State) : (afterLengthType l s).cur.rem = s.cur.rem - 1 :=
  rem_advance 1 (l.setWidth 16) s

theorem stackOk_afterLength {s : State} (h : StackOk s) (len : TotalLength) (h16 : 16 ≤ s.cur.rem) :
    StackOk (afterLength len s) :=
  (stackOk_afterLengthType h 0 (by omega)).advance (n := 15) (len.setWidth 16) (by rw [rem_afterLengthType]; omega)

theorem stackOk_afterCount {s : State} (h : StackOk s) (cnt : PacketCount) (h12 : 12 ≤ s.cur.rem) :
    StackOk (afterCount cnt s) :=
  (stackOk_afterLengthType h 1 (by omega)).advance (n := 11) (cnt.setWidth 16) (by rw [rem_afterLengthType]; omega)

theorem stackOk_afterGroup {s : State} (h : StackOk s) (g : BitVec 5) (h5 : 5 ≤ s.cur.rem) :
    StackOk (afterGroup g s) := h.advance (g.setWidth 16) h5

/-! How far each group of reads moves A. -/

theorem addr_afterVersion (v : Version) (s : State) : (afterVersion v s).cur.addr = s.cur.addr + 3 :=
  addr_advance 3 (v.setWidth 16) s

theorem addr_afterHeader (v : Version) (t : TypeId) (s : State) : (afterHeader v t s).cur.addr = s.cur.addr + 6 := by
  rw [afterHeader, setTid_cur, addr_advance, addr_afterVersion]

theorem addr_afterGroup (g : BitVec 5) (s : State) : (afterGroup g s).cur.addr = s.cur.addr + 5 :=
  addr_advance 5 (g.setWidth 16) s

theorem addr_afterLengthType (l : BitVec 1) (s : State) : (afterLengthType l s).cur.addr = s.cur.addr + 1 :=
  addr_advance 1 (l.setWidth 16) s

theorem addr_afterLength (len : TotalLength) (s : State) : (afterLength len s).cur.addr = s.cur.addr + 16 := by
  rw [afterLength, setTlen_cur, addr_advance, addr_afterLengthType]

theorem addr_afterCount (cnt : PacketCount) (s : State) : (afterCount cnt s).cur.addr = s.cur.addr + 12 := by
  rw [afterCount, setPcnt_cur, addr_advance, addr_afterLengthType]

/-! ## The windows under a frame -/

theorem windowsOk_cons_l0 {buflen : Nat} {f : Frame} {fs : List Frame} {c parent : Cursor} {total : TotalLength}
    (hm : f.mode = .l0 total parent) :
    WindowsOk buflen (f :: fs) c ↔
      c.base = parent.addr ∧ c.len = total.toNat ∧ c.pos ≤ c.len ∧ parent.pos + total.toNat ≤ parent.len ∧
        WindowsOk buflen fs parent := by
  rw [WindowsOk, hm]

theorem windowsOk_cons_l1 {buflen : Nat} {f : Frame} {fs : List Frame} {c : Cursor} {cnt : PacketCount}
    (hm : f.mode = .l1 cnt) : WindowsOk buflen (f :: fs) c ↔ WindowsOk buflen fs c := by
  rw [WindowsOk, hm]

/-- A window whose bits are all consumed ends where the parent stands once it has skipped them, and the parent's skip
stays in the parent's range (41_packet_decoder.md R113, R124). -/
theorem StackOk.closed {s : State} {f : Frame} {rest : List Frame} {total : TotalLength} {parent : Cursor}
    (h : StackOk s) (hs : s.stk = f :: rest) (hm : f.mode = .l0 total parent) (hp : s.cur.pos = total.toNat) :
    StackOk (setStk rest (setCur { parent with pos := parent.pos + total.toNat } s)) ∧
      parent.addr + total.toNat = s.cur.addr := by
  obtain ⟨hw, hcap, hread⟩ := h
  rw [hs, windowsOk_cons_l0 hm] at hw
  obtain ⟨hbase, -, -, hroom, hparent⟩ := hw
  have haddr : parent.addr + total.toNat = s.cur.addr := by simp only [Cursor.addr] at hbase ⊢; omega
  have hsp : s.sp = rest.length + 1 := by rw [State.sp, hs, List.length_cons]
  refine ⟨⟨hparent.forward hroom, fun m hmax => ?_, ?_⟩, haddr⟩
  · have := hcap m hmax
    show rest.length ≤ m
    omega
  · show 18 * rest.length ≤ Cursor.addr { parent with pos := parent.pos + total.toNat }
    rw [Cursor.addr_forward]; omega

/-- The window under a MODE 0 frame fits into what its parent has left (41_packet_decoder.md R113). -/
theorem StackOk.window_fits {s : State} {f : Frame} {rest : List Frame} {total : TotalLength} {parent : Cursor}
    (h : StackOk s) (hs : s.stk = f :: rest) (hm : f.mode = .l0 total parent) : total.toNat ≤ parent.rem := by
  obtain ⟨hw, -, -⟩ := h
  rw [hs, windowsOk_cons_l0 hm] at hw
  obtain ⟨-, -, -, hroom, -⟩ := hw
  simp only [Cursor.rem]; omega

/-- Under a MODE 1 frame the cursor is the one of the frames below. -/
theorem StackOk.pop_l1 {s : State} {f : Frame} {rest : List Frame} {cnt : PacketCount} (h : StackOk s)
    (hs : s.stk = f :: rest) (hm : f.mode = .l1 cnt) : StackOk (setStk rest s) := by
  obtain ⟨hw, hcap, hread⟩ := h
  rw [hs, windowsOk_cons_l1 hm] at hw
  have hsp : s.sp = rest.length + 1 := by rw [State.sp, hs, List.length_cons]
  refine ⟨hw, fun m hmax => ?_, ?_⟩
  · have := hcap m hmax
    show rest.length ≤ m
    omega
  · show 18 * rest.length ≤ s.cur.addr
    omega

/-- The top frame may change in all but its window. -/
theorem StackOk.replace_top {s : State} {f g : Frame} {rest : List Frame} (h : StackOk s) (hs : s.stk = f :: rest)
    (hw : WindowsOk s.buflen (f :: rest) s.cur → WindowsOk s.buflen (g :: rest) s.cur) :
    StackOk (setStk (g :: rest) s) := by
  unfold StackOk State.sp at h
  rw [hs] at h
  exact ⟨hw h.1, h.2⟩

/-! ## What a running state is -/

/-- The invariant of a run but for the buffer and the results: a step keeps it whatever the buffer holds. -/
def RunOk (s : State) : Prop := WindowsOk s.buflen s.stk s.cur ∧ DepthOk s ∧ PhaseOk s

theorem RunOk.stackOk {s : State} (h : RunOk s) : StackOk s :=
  ⟨h.1, h.2.1.1, le_trans (Nat.le_add_right ..) h.2.1.2⟩

theorem RunOk.cursorInBuffer {s : State} (h : RunOk s) : CursorInBuffer s := h.1.inBuffer

theorem RunOk.phaseOk {s : State} (h : RunOk s) : PhaseOk s := h.2.2

/-- In OPH the six bits of the header in hand have been read besides. -/
theorem RunOk.header_read {s : State} (h : RunOk s) (hp : s.phase = .oph) : 18 * s.sp + 6 ≤ s.cur.addr := by
  have := h.2.1.2
  rwa [if_pos hp] at this

theorem StackOk.runOk_of_hdr {s : State} (h : StackOk s) (hp : s.phase = .hdr) : RunOk s := by
  obtain ⟨hw, hcap, hread⟩ := h
  exact ⟨hw, ⟨hcap, by simpa [hp] using hread⟩, by simp [PhaseOk, hp]⟩

theorem StackOk.runOk_of_lit {s : State} (h : StackOk s) (hp : s.phase = .lit) (ht : s.tid = literalTypeId) :
    RunOk s := by
  obtain ⟨hw, hcap, hread⟩ := h
  exact ⟨hw, ⟨hcap, by simpa [hp] using hread⟩, by simp [PhaseOk, hp, ht]⟩

theorem StackOk.runOk_of_oph {s : State} (h : StackOk s) (hp : s.phase = .oph) (ht : s.tid ≠ literalTypeId)
    (h6 : 18 * s.sp + 6 ≤ s.cur.addr) : RunOk s := by
  obtain ⟨hw, hcap, -⟩ := h
  exact ⟨hw, ⟨hcap, by simpa [hp] using h6⟩, by simp [PhaseOk, hp, ht]⟩

theorem StackOk.runOk_of_next {s : State} (h : StackOk s) (hp : s.phase = .next) (hs : s.stk ≠ []) : RunOk s := by
  obtain ⟨hw, hcap, hread⟩ := h
  exact ⟨hw, ⟨hcap, by simpa [hp] using hread⟩, by simp [PhaseOk, hp, hs]⟩

/-! ## Every step keeps it -/

@[simp] theorem faultEntry_busy (k : DecodeFault) (a : Nat) (s : State) : (faultEntry k a s).busy = false := rfl

@[simp] theorem finishRun_busy (p : Packet) (s : State) : (finishRun p s).busy = false := rfl

/-- A completion that does not end the run leaves the parent's NEXT step. -/
theorem StackOk.runOk_complete {s : State} (h : StackOk s) (p : Packet) (hb : (complete p s).busy = true) :
    RunOk (complete p s) := by
  rcases complete_cases p s with ⟨-, hc⟩ | ⟨f, rest, hs, hc⟩
  · rw [hc, finishRun_busy] at hb; cases hb
  · rw [hc]
    have hstack : StackOk (setStk ({ f with children := f.children ++ [p] } :: rest) s) := h.replace_top hs id
    exact StackOk.runOk_of_next hstack rfl (by simp)

theorem HeaderEnds.runOk {v : Version} {tid : TypeId} {s t : State} (he : HeaderEnds v tid s t) (h : StackOk s)
    (hb : t.busy = true) : RunOk t := by
  cases he with
  | noVersion => simp at hb
  | noTypeId => simp at hb
  | literal h6 ht => 
    have hstack := (stackOk_setAcc 0 _).2 (stackOk_afterHeader h v tid h6)
    exact ((stackOk_setPhase .lit _).2 hstack).runOk_of_lit rfl ht
  | operator h6 ht =>
    refine ((stackOk_setPhase .oph _).2 (stackOk_afterHeader h v tid h6)).runOk_of_oph rfl ht ?_
    obtain ⟨-, -, hread⟩ := h
    rw [setPhase_cur, addr_afterHeader]
    exact Nat.add_le_add_right hread 6

theorem GroupEnds.runOk {g : BitVec 5} {s t : State} (he : GroupEnds g s t) (h : StackOk s) (hp : s.phase = .lit)
    (ht : s.tid = literalTypeId) (hb : t.busy = true) : RunOk t := by
  cases he with
  | noGroup => simp at hb
  | overflow => simp at hb
  | more h5 => exact ((stackOk_setAcc _ _).2 (stackOk_afterGroup h g h5)).runOk_of_lit hp ht
  | last h5 => exact ((stackOk_setAcc _ _).2 (stackOk_afterGroup h g h5)).runOk_complete _ hb

/-- Where the stack is not full there is room for one frame more. -/
theorem StackOk.room {s : State} (h : StackOk s) (hf : s.stackFull = false) :
    ∀ m, s.params.maxDepth = some m → s.sp + 1 ≤ m := by
  intro m hmax
  obtain ⟨-, hcap, -⟩ := h
  exact Nat.lt_of_le_of_ne (hcap m hmax) (stackFull_eq_false.1 hf m hmax)

theorem WindowEnds.runOk {k : Kind} {len : TotalLength} {s t : State} (he : WindowEnds k s.ver len s t)
    (h : RunOk s) (hp : s.phase = .oph) (hb : t.busy = true) : RunOk t := by
  cases he with
  | noLengthType => simp at hb
  | noLength => simp at hb
  | tooLong => simp at hb
  | tooDeep => simp at hb
  | pushed hl hf =>
    obtain ⟨hparent, -, -⟩ := stackOk_afterLength h.stackOk len (by omega)
    have hread := h.header_read hp
    refine StackOk.runOk_of_next ⟨?_, h.stackOk.room hf, ?_⟩ rfl (by simp)
    · rw [pushFrame_stk, windowsOk_cons_l0 rfl]
      refine ⟨(Cursor.addr_forward s.cur 16).symm, rfl, Nat.zero_le _, ?_, hparent⟩
      simp only [Cursor.rem] at hl ⊢; omega
    · show 18 * (s.sp + 1) ≤ s.cur.addr + 16 + 0
      omega

theorem CountEnds.runOk {k : Kind} {cnt : PacketCount} {s t : State} (he : CountEnds k s.ver cnt s t)
    (h : RunOk s) (hp : s.phase = .oph) (hb : t.busy = true) : RunOk t := by
  cases he with
  | noLengthType => simp at hb
  | noCount => simp at hb
  | tooDeep => simp at hb
  | pushed h12 hf =>
    obtain ⟨hwindows, -, -⟩ := stackOk_afterCount h.stackOk cnt h12
    have hread := h.header_read hp
    refine StackOk.runOk_of_next ⟨hwindows, h.stackOk.room hf, ?_⟩ rfl (by simp)
    rw [pushFrame_cur, addr_afterCount]
    show 18 * (s.sp + 1) ≤ s.cur.addr + 12
    omega

theorem NextEnds.runOk {f : Frame} {rest : List Frame} {s t : State} (he : NextEnds f rest s t) (h : StackOk s)
    (hs : s.stk = f :: rest) (hb : t.busy = true) : RunOk t := by
  cases he with
  | child => exact ((stackOk_setPhase .hdr s).2 h).runOk_of_hdr rfl
  | mismatch => simp at hb
  | badParent => simp at hb
  | closed total parent hm _ hp => exact (h.closed hs hm hp).1.runOk_complete _ hb
  | counted hm => exact (h.pop_l1 hs hm).runOk_complete _ hb
  | another cnt hm =>
    have hstack := h.replace_top (g := { f with mode := .l1 (cnt - 1) }) hs
      (fun hw => (windowsOk_cons_l1 rfl).2 ((windowsOk_cons_l1 hm).1 hw))
    exact ((stackOk_setPhase .hdr _).2 hstack).runOk_of_hdr rfl

/-- A sequencer step that does not end the run keeps the invariant of the run, whatever the buffer holds. -/
theorem StreamEnds.runOk {s t : State} (he : StreamEnds s t) (h : RunOk s) (hb : t.busy = true) : RunOk t := by
  cases he with
  | hdr v tid hp he => exact he.runOk h.stackOk hb
  | lit g hp he => exact he.runOk h.stackOk hp (h.phaseOk.1 hp) hb
  | window k len hp _ he => exact he.runOk h hp hb
  | count k cnt hp _ he => exact he.runOk h hp hb
  | next f rest hp hs he => exact he.runOk h.stackOk hs hb

end Sys2Proof.Machine
end

section
/-! PROOFS of the family 10_state.md, part 2: what a sequencer step does to the address, the buffer and the results, and
the invariant over every step of the machine. -/

namespace Sys2Proof.Machine

open Sys2Proof Sys2Proof.Safety

/-! ## The address (10_state.md R16, 40_bitcursor.md R88) -/

/-- A step that leaves the address where it was, or moves it over bits the cursor had left. -/
def MovesForward (s t : State) : Prop := ∃ n, n ≤ s.cur.rem ∧ t.cur.addr = s.cur.addr + n

theorem HeaderEnds.movesForward {v : Version} {tid : TypeId} {s t : State} (he : HeaderEnds v tid s t) :
    MovesForward s t := by
  cases he with
  | noVersion => exact ⟨0, Nat.zero_le _, rfl⟩
  | noTypeId h3 => exact ⟨3, h3, addr_afterVersion v s⟩
  | literal h6 => exact ⟨6, h6, addr_afterHeader v tid s⟩
  | operator h6 => exact ⟨6, h6, addr_afterHeader v tid s⟩

theorem GroupEnds.movesForward {g : BitVec 5} {s t : State} (he : GroupEnds g s t) : MovesForward s t := by
  cases he with
  | noGroup => exact ⟨0, Nat.zero_le _, rfl⟩
  | overflow h5 => exact ⟨5, h5, addr_afterGroup g s⟩
  | more h5 => exact ⟨5, h5, addr_afterGroup g s⟩
  | last h5 => exact ⟨5, h5, by rw [complete_cur]; exact addr_afterGroup g s⟩

theorem WindowEnds.movesForward {k : Kind} {ver : Version} {len : TotalLength} {s t : State}
    (he : WindowEnds k ver len s t) : MovesForward s t := by
  cases he with
  | noLengthType => exact ⟨0, Nat.zero_le _, rfl⟩
  | noLength h1 => exact ⟨1, h1, addr_afterLengthType 0 s⟩
  | tooLong h16 => exact ⟨16, h16, addr_afterLength len s⟩
  | tooDeep hl => exact ⟨16, by omega, addr_afterLength len s⟩
  | pushed hl => exact ⟨16, by omega, rfl⟩

theorem CountEnds.movesForward {k : Kind} {ver : Version} {cnt : PacketCount} {s t : State}
    (he : CountEnds k ver cnt s t) : MovesForward s t := by
  cases he with
  | noLengthType => exact ⟨0, Nat.zero_le _, rfl⟩
  | noCount h1 => exact ⟨1, h1, addr_afterLengthType 1 s⟩
  | tooDeep h12 => exact ⟨12, h12, addr_afterCount cnt s⟩
  | pushed h12 => exact ⟨12, h12, addr_afterCount cnt s⟩

/-- In NEXT no bit is read, and the parent's skip of a closed window comes to where the window ends. -/
theorem NextEnds.movesForward {f : Frame} {rest : List Frame} {s t : State} (he : NextEnds f rest s t)
    (h : StackOk s) (hs : s.stk = f :: rest) : MovesForward s t := by
  refine ⟨0, Nat.zero_le _, ?_⟩
  cases he with
  | child => rfl
  | mismatch => rfl
  | badParent total parent hm _ _ hrem =>
    exact absurd (h.window_fits hs hm) (Nat.not_le.2 hrem)
  | closed total parent hm _ hp =>
    rw [complete_cur, setStk_cur, setCur_cur, Cursor.addr_forward]
    exact (h.closed hs hm hp).2
  | counted => rw [complete_cur]; rfl
  | another => rfl

theorem StreamEnds.movesForward {s t : State} (he : StreamEnds s t) (h : StackOk s) : MovesForward s t := by
  cases he with
  | hdr _ _ _ he => exact he.movesForward
  | lit _ _ he => exact he.movesForward
  | window _ _ _ _ he => exact he.movesForward
  | count _ _ _ _ he => exact he.movesForward
  | next _ _ _ hs he => exact he.movesForward h hs

/-- Moving forward over the bits that are left stays in the buffer. -/
theorem MovesForward.addr_le {s t : State} (hf : MovesForward s t) (h : CursorInBuffer s) :
    s.cur.addr ≤ t.cur.addr ∧ t.cur.addr ≤ s.buflen := by
  obtain ⟨n, hn, hn'⟩ := hf
  obtain ⟨hpos, hlen⟩ := h
  simp only [Cursor.rem, Cursor.addr] at *
  omega

/-! ## What a sequencer step leaves alone -/

/-- The parameters, the buffer and what is still to arrive from outside. -/
def SameBuffer (s t : State) : Prop :=
  t.params = s.params ∧ t.mem = s.mem ∧ t.buflen = s.buflen ∧ t.inputs = s.inputs

/-- No sequencer step stores (20_memory.md R51). -/
theorem StreamEnds.sameBuffer {s t : State} (he : StreamEnds s t) : SameBuffer s t := by
  cases he with
  | hdr _ _ _ he => cases he <;> simp [SameBuffer]
  | lit _ _ he => cases he <;> simp [SameBuffer]
  | window _ _ _ _ he => cases he <;> simp [SameBuffer]
  | count _ _ _ _ he => cases he <;> simp [SameBuffer]
  | next _ _ _ _ he => cases he <;> simp [SameBuffer]

theorem SameBuffer.bufferOk {s t : State} (h : SameBuffer s t) (hs : BufferOk s) : BufferOk t := by
  obtain ⟨hparams, hmem, hlen, -⟩ := h
  unfold BufferOk
  rwa [hparams, hmem, hlen]

/-! ## The results (10_state.md R27 to R31) -/

/-- The result registers as START leaves them and as they stay while the run lasts. -/
def NoResults (s : State) : Prop :=
  s.tree = none ∧ s.vsum = none ∧ s.value = none ∧ s.everr = none ∧ s.endpos = 0 ∧ s.derr = none ∧ s.epos = 0

theorem phase_ne_of_busy {s : State} (hb : s.busy = true) : s.phase ≠ .done ∧ s.phase ≠ .fault := by
  rcases busy_iff.1 hb with hp | hp | hp | hp <;> simp [hp]

theorem resultsOk_iff_of_busy {s : State} (hb : s.busy = true) : ResultsOk s ↔ NoResults s := by
  obtain ⟨hdone, hfault⟩ := phase_ne_of_busy hb
  simp [ResultsOk, NoResults, hdone, hfault, and_assoc]

theorem NoResults.resultsOk_faultEntry {s : State} (h : NoResults s) (k : DecodeFault) (a : Nat) :
    ResultsOk (faultEntry k a s) := by
  obtain ⟨-, -, -, heverr, hend, -, -⟩ := h
  simp [ResultsOk, heverr, hend]

theorem NoResults.resultsOk_complete {s : State} (h : NoResults s) (p : Packet) : ResultsOk (complete p s) := by
  rcases complete_cases p s with ⟨-, hc⟩ | ⟨f, rest, -, hc⟩ <;> rw [hc]
  · obtain ⟨-, -, -, -, -, hderr, hepos⟩ := h
    simp [ResultsOk, hderr, hepos]
  · exact (resultsOk_iff_of_busy rfl).2 h

theorem HeaderEnds.resultsOk {v : Version} {tid : TypeId} {s t : State} (he : HeaderEnds v tid s t)
    (h : NoResults s) : ResultsOk t := by
  cases he with
  | noVersion => exact h.resultsOk_faultEntry ..
  | noTypeId => exact NoResults.resultsOk_faultEntry (s := afterVersion v s) h ..
  | literal => exact (resultsOk_iff_of_busy rfl).2 h
  | operator => exact (resultsOk_iff_of_busy rfl).2 h

theorem GroupEnds.resultsOk {g : BitVec 5} {s t : State} (he : GroupEnds g s t) (h : NoResults s)
    (hb : s.busy = true) : ResultsOk t := by
  cases he with
  | noGroup => exact h.resultsOk_faultEntry ..
  | overflow => exact NoResults.resultsOk_faultEntry (s := afterGroup g s) h ..
  | more => exact (resultsOk_iff_of_busy hb).2 h
  | last => exact NoResults.resultsOk_complete (s := setAcc _ (afterGroup g s)) h _

theorem WindowEnds.resultsOk {k : Kind} {ver : Version} {len : TotalLength} {s t : State}
    (he : WindowEnds k ver len s t) (h : NoResults s) : ResultsOk t := by
  cases he with
  | noLengthType => exact h.resultsOk_faultEntry ..
  | noLength => exact NoResults.resultsOk_faultEntry (s := afterLengthType 0 s) h ..
  | tooLong => exact NoResults.resultsOk_faultEntry (s := afterLength len s) h ..
  | tooDeep => exact NoResults.resultsOk_faultEntry (s := afterLength len s) h ..
  | pushed => exact (resultsOk_iff_of_busy rfl).2 h

theorem CountEnds.resultsOk {k : Kind} {ver : Version} {cnt : PacketCount} {s t : State}
    (he : CountEnds k ver cnt s t) (h : NoResults s) : ResultsOk t := by
  cases he with
  | noLengthType => exact h.resultsOk_faultEntry ..
  | noCount => exact NoResults.resultsOk_faultEntry (s := afterLengthType 1 s) h ..
  | tooDeep => exact NoResults.resultsOk_faultEntry (s := afterCount cnt s) h ..
  | pushed => exact (resultsOk_iff_of_busy rfl).2 h

theorem NextEnds.resultsOk {f : Frame} {rest : List Frame} {s t : State} (he : NextEnds f rest s t)
    (h : NoResults s) : ResultsOk t := by
  cases he with
  | child => exact (resultsOk_iff_of_busy rfl).2 h
  | mismatch => exact h.resultsOk_faultEntry ..
  | badParent total parent => exact NoResults.resultsOk_faultEntry (s := setCur parent s) h ..
  | closed total parent =>
    exact NoResults.resultsOk_complete
      (s := setStk rest (setCur { parent with pos := parent.pos + total.toNat } s)) h _
  | counted => exact NoResults.resultsOk_complete (s := setStk rest s) h _
  | another => exact (resultsOk_iff_of_busy rfl).2 h

theorem StreamEnds.resultsOk {s t : State} (he : StreamEnds s t) (h : NoResults s) : ResultsOk t := by
  cases he with
  | hdr _ _ _ he => exact he.resultsOk h
  | lit _ hp he => exact he.resultsOk h (busy_iff.2 (.inr (.inr (.inl hp))))
  | window _ _ _ _ he => exact he.resultsOk h
  | count _ _ _ _ he => exact he.resultsOk h
  | next _ _ _ _ he => exact he.resultsOk h

/-! ## A sequencer step keeps the invariant -/

theorem inv_iff {s : State} : Inv s ↔ BufferOk s ∧ (s.busy = true → RunOk s) ∧ ResultsOk s :=
  ⟨fun h => ⟨h.buffer, fun hb => ⟨h.windows hb, h.depth hb, h.phase hb⟩, h.results⟩,
    fun ⟨hbuffer, hrun, hresults⟩ =>
      ⟨hbuffer, fun hb => (hrun hb).1, fun hb => (hrun hb).2.1, fun hb => (hrun hb).2.2, hresults⟩⟩

/-- Outside a run the invariant is the buffer's and the results'. -/
theorem inv_iff_of_not_busy {s : State} (hb : s.busy = false) : Inv s ↔ BufferOk s ∧ ResultsOk s := by
  simp [inv_iff, hb]

/-- A sequencer step in a run is one of those `StreamEnds` lists. -/
theorem RunOk.streamEnds {s t : State} (h : RunOk s) (hb : s.busy = true) (hs : sequencerStep s = .next t) :
    StreamEnds s t := by
  obtain ⟨-, hoph, hnext⟩ := h.phaseOk
  obtain ⟨u, hu, he⟩ := sequencer_ends hb h.cursorInBuffer hoph hnext
  obtain rfl := Host.Outcome.next.inj (hs.symm.trans hu)
  exact he

theorem sequencerStep_keeps_inv {s t : State} (h : Inv s) (hs : sequencerStep s = .next t) : Inv t := by
  cases hb : s.busy with
  | false =>
    rw [sequencer_waits hb] at hs
    obtain rfl := Host.Outcome.next.inj hs
    exact h
  | true =>
    obtain ⟨hbuffer, hrun, hresults⟩ := inv_iff.1 h
    have he := (hrun hb).streamEnds hb hs
    exact inv_iff.2 ⟨he.sameBuffer.bufferOk hbuffer, he.runOk (hrun hb),
      he.resultsOk ((resultsOk_iff_of_busy hb).1 hresults)⟩

/-! ## The host keeps the invariant -/

theorem resetState_inv {s : State} : Inv (resetState s) := by
  refine (inv_iff_of_not_busy rfl).2 ⟨⟨rfl, fun i _ => readBit_nil i, fun m _ => Nat.zero_le m⟩, ?_⟩
  simp [ResultsOk, State.reset]

/-- What START leaves is the beginning of a run. -/
theorem startState_runOk (s : State) : RunOk (startState s) := by
  refine StackOk.runOk_of_hdr ⟨?_, fun m _ => Nat.zero_le m, Nat.zero_le _⟩ rfl
  exact ⟨rfl, rfl, Nat.zero_le _⟩

theorem startState_inv {s : State} (h : Inv s) : Inv (startState s) := by
  refine inv_iff.2 ⟨h.buffer, fun _ => startState_runOk s, (resultsOk_iff_of_busy rfl).2 ?_⟩
  simp [NoResults]

theorem loadFits_iff {p : Params} {len : Nat} : loadFits p len = true ↔ ∀ m, p.maxBits = some m → len ≤ m := by
  unfold loadFits
  cases p.maxBits <;> simp

theorem setBuffer_bufferOk {bits : List Bool} {s : State} (hfits : loadFits s.params bits.length = true) :
    BufferOk (setBuffer bits s) := by
  refine ⟨packBits_wf bits, fun i hi => ?_, loadFits_iff.1 hfits⟩
  rw [setBuffer_mem, readBit_packBits]
  exact List.getD_eq_default _ _ hi

theorem hostLoad_inv {bits : List Bool} {s : State} (h : Inv s) : Inv (hostLoad bits s) := by
  unfold hostLoad
  split
  · rename_i hload
    obtain ⟨hb, hfits⟩ : s.busy = false ∧ loadFits s.params bits.length = true := by simpa using hload
    exact (inv_iff_of_not_busy (s := setBuffer bits s) hb).2 ⟨setBuffer_bufferOk hfits, h.results⟩
  · exact h

theorem execStart_keeps_inv {s t : State} (h : Inv s) (hs : execStart s = .next t) : Inv t := by
  unfold execStart at hs
  split at hs <;> obtain rfl := Host.Outcome.next.inj hs
  · exact h
  · exact startState_inv h

/-- A control value is SRESET or START, or no command. -/
theorem decodeControl_cases {v : Control} {i : Instr} (h : decodeControl v = .ok i) :
    (∃ b, i = .sreset b) ∨ i = .start := by
  unfold decodeControl at h
  split at h
  · exact .inl ⟨_, (Except.ok.inj h).symm⟩
  · split at h
    · exact .inr (Except.ok.inj h).symm
    · cases h

theorem control_keeps_inv {v : Control} {i : Instr} {s t : State} (h : Inv s) (hi : decodeControl v = .ok i)
    (hs : exec i s = .next t) : Inv t := by
  rcases decodeControl_cases hi with ⟨b, rfl⟩ | rfl
  · obtain rfl := Host.Outcome.next.inj hs
    exact resetState_inv
  · exact execStart_keeps_inv h hs

/-! ## Command words outside a run (log 8) -/

/-- The fields a cursor command may write outside a run. -/
def withResponse (c : Cursor) (v : BitVec 16) (r : Response) (s : State) : State :=
  { s with cur := c, rdata := v, response := some r }

theorem commandFails_next {s t : State} (hb : s.busy = false) (h : commandFails s = .next t) :
    ∃ c v r, t = withResponse c v r s := by
  unfold commandFails at h
  rw [hb] at h
  exact ⟨s.cur, s.rdata, .failed, (Host.Outcome.next.inj h).symm⟩

/-- Everything a command word can do outside a run where it answers a next state: CUR, RDATA and the response. -/
theorem takeCommand_next_of_not_busy {w : CommandWord} {s t : State} (hb : s.busy = false)
    (h : takeCommand w s = .next t) : ∃ c v r, t = withResponse c v r s := by
  rw [takeCommand_of_not_busy hb] at h
  unfold decodeCommand at h
  split at h <;> split at h
  · change execSkip _ s = _ at h
    unfold execSkip at h
    split at h
    · exact commandFails_next hb h
    · exact ⟨_, _, _, (Host.Outcome.next.inj h).symm⟩
  · change execSubv _ s = _ at h
    unfold execSubv at h
    split at h
    · exact commandFails_next hb h
    · exact ⟨_, _, _, (Host.Outcome.next.inj h).symm⟩
  · exact ⟨_, _, _, (Host.Outcome.next.inj h).symm⟩
  · change execRdb _ s = _ at h
    unfold execRdb at h
    split at h
    · split at h
      · exact commandFails_next hb h
      · cases h
      · exact ⟨_, _, _, (Host.Outcome.next.inj h).symm⟩
    · cases h

theorem takeCommand_keeps_inv {w : CommandWord} {s t : State} (h : Inv s) (hs : takeCommand w s = .next t) :
    Inv t := by
  cases hb : s.busy with
  | true =>
    obtain rfl := Host.Outcome.next.inj ((takeCommand_of_busy hb).symm.trans hs)
    exact h
  | false =>
    obtain ⟨c, v, r, rfl⟩ := takeCommand_next_of_not_busy hb hs
    exact (inv_iff_of_not_busy (s := withResponse c v r s) hb).2 ⟨h.buffer, h.results⟩

/-! ## Every step of the machine -/

theorem takeInput_keeps_inv {i : Input} {s t : State} (h : Inv s) (hs : takeInput i s = .next t) : Inv t := by
  cases i with
  | pause => exact sequencerStep_keeps_inv h hs
  | reset => obtain rfl := Host.Outcome.next.inj hs; exact resetState_inv
  | load bits => obtain rfl := Host.Outcome.next.inj hs; exact hostLoad_inv h
  | control v =>
    simp only [takeInput] at hs
    split at hs
    · rename_i hi; exact control_keeps_inv h hi hs
    · obtain rfl := Host.Outcome.next.inj hs; exact h
  | writeReadOnly => obtain rfl := Host.Outcome.next.inj hs; exact h
  | read =>
    obtain rfl := Host.Outcome.next.inj hs
    exact ⟨h.buffer, h.windows, h.depth, h.phase, h.results⟩
  | command w => exact takeCommand_keeps_inv h hs

theorem setInputs_inv {v : List Input} {s : State} (h : Inv s) : Inv (setInputs v s) :=
  ⟨h.buffer, h.windows, h.depth, h.phase, h.results⟩

/-- Settles O41: the sequencer's steps by `StreamEnds`, then input by input. -/
theorem stepKeepsInvariant : Obligations.StepKeepsInvariant := by
  intro s t h hs
  cases hi : s.inputs with
  | nil => rw [step_of_no_input hi] at hs; exact sequencerStep_keeps_inv h hs
  | cons i rest => rw [step_of_input hi] at hs; exact takeInput_keeps_inv (setInputs_inv h) hs

/-- Settles O44: a sequencer step moves A over bits the cursor had left, and the cursor lies in the buffer. -/
theorem addressNeverDecreases : Obligations.AddressNeverDecreases := by
  intro s t h hb hi hs
  rw [step_of_no_input hi] at hs
  obtain ⟨-, hrun, -⟩ := inv_iff.1 h
  have he := (hrun hb).streamEnds hb hs
  obtain ⟨-, -, hlen, -⟩ := he.sameBuffer
  rw [hlen]
  exact (he.movesForward (hrun hb).stackOk).addr_le (hrun hb).cursorInBuffer

/-! ## Reset (10_state.md R35) -/

/-- Settles O30: every field is the one the reset state is defined with. -/
theorem resetValues : Obligations.ResetValues :=
  ⟨rfl, rfl, rfl, rfl, rfl, rfl, rfl, rfl, rfl, rfl, rfl⟩

/-- Settles O40: RESET leaves a state that meets the invariant, and on the reset state it changes nothing. -/
theorem resetMeetsInvariant : Obligations.ResetMeetsInvariant := resetState_inv (s := State.reset)

end Sys2Proof.Machine
end

section
/-! PROOFS of the family 10_state.md, part 3: a run depends on the buffer alone (10_state.md R36). Two machines that agree
but for the working registers START leaves unspecified (R35, log 3) take the same steps, since a run writes each of
them before it reads it. -/

namespace Sys2Proof.Machine

open Sys2Proof Sys2Proof.Safety

/-! ## The state without its working registers -/

/-- The state with its working registers (10_state.md R17) and the model's own `response`, `readData` and `free` blanked:
what START sets and what a run's outcome is. -/
def visible (s : State) : State :=
  { s with
    rdata := 0, ver := 0, tid := 0, ltid := 0, tlen := 0, pcnt := 0, grp := 0, acc := 0,
    response := none, readData := .noValue, free := 0 }

/-! A working register written is not visible; every other update is the same update of what is visible. -/

@[simp] theorem visible_setVer (v : Version) (s : State) : visible (setVer v s) = visible s := rfl
@[simp] theorem visible_setTid (v : TypeId) (s : State) : visible (setTid v s) = visible s := rfl
@[simp] theorem visible_setLtid (v : BitVec 1) (s : State) : visible (setLtid v s) = visible s := rfl
@[simp] theorem visible_setTlen (v : TotalLength) (s : State) : visible (setTlen v s) = visible s := rfl
@[simp] theorem visible_setPcnt (v : PacketCount) (s : State) : visible (setPcnt v s) = visible s := rfl
@[simp] theorem visible_setGrp (v : BitVec 5) (s : State) : visible (setGrp v s) = visible s := rfl
@[simp] theorem visible_setAcc (v : Value) (s : State) : visible (setAcc v s) = visible s := rfl
@[simp] theorem visible_advance (n : Nat) (v : BitVec 16) (s : State) :
    visible (advance n v s) = advance n 0 (visible s) := rfl
@[simp] theorem visible_setCur (c : Cursor) (s : State) : visible (setCur c s) = setCur c (visible s) := rfl
@[simp] theorem visible_setStk (v : List Frame) (s : State) : visible (setStk v s) = setStk v (visible s) := rfl
@[simp] theorem visible_setPhase (v : Phase) (s : State) : visible (setPhase v s) = setPhase v (visible s) := rfl
@[simp] theorem visible_pushFrame (f : Frame) (s : State) : visible (pushFrame f s) = pushFrame f (visible s) := rfl
@[simp] theorem visible_faultEntry (k : DecodeFault) (a : Nat) (s : State) :
    visible (faultEntry k a s) = faultEntry k a (visible s) := rfl

@[simp] theorem visible_complete (p : Packet) (s : State) : visible (complete p s) = complete p (visible s) := by
  rcases complete_cases p s with ⟨hs, hc⟩ | ⟨f, rest, hs, hc⟩
  · rw [hc, complete_root (s := visible s) hs]; rfl
  · rw [hc, complete_child (s := visible s) hs]; rfl

/-! ## Machines that agree -/

/-- Two states that differ at most in working registers the run does not read before it writes them: VER and TID are
read in OPH, VER and ACC in LIT. -/
structure Agree (s t : State) : Prop where
  visible : visible s = visible t
  header : s.phase = .oph → s.ver = t.ver ∧ s.tid = t.tid
  literal : s.phase = .lit → s.ver = t.ver ∧ s.acc = t.acc

/-- Two results that are next states and agree. -/
inductive Alike : Result → Result → Prop where
  | next {s t : State} (h : Agree s t) : Alike (.next s) (.next t)

theorem Alike.of_next {s : State} {r : Result} (h : Alike (.next s) r) : ∃ t, r = .next t ∧ Agree s t := by
  cases h with
  | next h => exact ⟨_, rfl, h⟩

section
variable {s t : State} (h : visible s = visible t)
include h

theorem params_eq_of_visible : s.params = t.params := (congrArg State.params h :)
theorem mem_eq_of_visible : s.mem = t.mem := (congrArg State.mem h :)
theorem buflen_eq_of_visible : s.buflen = t.buflen := (congrArg State.buflen h :)
theorem cur_eq_of_visible : s.cur = t.cur := (congrArg State.cur h :)
theorem stk_eq_of_visible : s.stk = t.stk := (congrArg State.stk h :)
theorem phase_eq_of_visible : s.phase = t.phase := (congrArg State.phase h :)
theorem inputs_eq_of_visible : s.inputs = t.inputs := (congrArg State.inputs h :)

theorem stackFull_eq_of_visible : s.stackFull = t.stackFull := by
  rw [State.stackFull, State.stackFull, State.sp, State.sp, params_eq_of_visible h, stk_eq_of_visible h]

theorem busy_eq_of_visible : s.busy = t.busy := by rw [State.busy, State.busy, phase_eq_of_visible h]

theorem fieldAt_eq_of_visible (n a : Nat) : fieldAt s n a = fieldAt t n a := by
  rw [fieldAt, fieldAt, mem_eq_of_visible h]

theorem sameOutcome_of_visible : SameOutcome s t :=
  ⟨(congrArg State.phase h :), (congrArg State.derr h :), (congrArg State.everr h :), (congrArg State.epos h :),
    (congrArg State.endpos h :), (congrArg State.tree h :), (congrArg State.vsum h :), (congrArg State.value h :)⟩

/-- Outside OPH and LIT no working register is read before it is written. -/
theorem agree_of_visible (hoph : s.phase ≠ .oph) (hlit : s.phase ≠ .lit) : Agree s t :=
  ⟨h, fun hp => absurd hp hoph, fun hp => absurd hp hlit⟩

/-! ## The shared operations of two machines that agree -/

theorem raise_alike (k : DecodeFault) (a : Nat) : Alike (raise k a s) (raise k a t) :=
  .next (agree_of_visible (by simp [h]) (by simp) (by simp))

theorem complete_alike (p : Packet) : Alike (.next (complete p s)) (.next (complete p t)) := by
  have hphase : (complete p s).phase = .done ∨ (complete p s).phase = .next := by
    rcases complete_cases p s with ⟨-, hc⟩ | ⟨f, rest, -, hc⟩ <;> simp [hc]
  refine .next (agree_of_visible (by simp [h]) ?_ ?_) <;> rcases hphase with hp | hp <;> simp [hp]

theorem consume_alike {n : Nat} {v : BitVec n} {k k' : State → Result}
    (hk : Alike (k (advance n (v.setWidth 16) s)) (k' (advance n (v.setWidth 16) t))) :
    Alike (consume v s k) (consume v t k') := by
  unfold consume
  rw [cur_eq_of_visible h]
  split
  · exact raise_alike h ..
  · exact hk

/-- Where what follows the read looks at nothing but what is visible. -/
theorem consume_alike_of_visible {n : Nat} (v : BitVec n) {k : State → Result}
    (hk : ∀ {u u'}, visible u = visible u' → Alike (k u) (k u')) : Alike (consume v s k) (consume v t k) :=
  consume_alike h (hk (by simp [h]))

/-! ## The steps of two machines that agree -/

theorem headerStep_alike (v : Version) (tid : TypeId) : Alike (headerStep v tid s) (headerStep v tid t) := by
  refine consume_alike h (consume_alike (by simp [h]) ?_)
  by_cases ht : tid = literalTypeId
  · rw [if_pos ht, if_pos ht]
    exact .next ⟨by simp [h], by simp, by simp⟩
  · rw [if_neg ht, if_neg ht]
    exact .next ⟨by simp [h], by simp, by simp⟩

theorem groupStep_alike (hp : s.phase = .lit) (hv : s.ver = t.ver) (ha : s.acc = t.acc) (g : BitVec 5) :
    Alike (groupStep g s) (groupStep g t) := by
  unfold groupStep
  refine consume_alike h ?_
  rw [addr_advance, addr_advance, cur_eq_of_visible h, advance_acc, advance_acc, advance_ver, advance_ver, hv, ha]
  split
  · exact raise_alike (by simp [h]) ..
  · split
    · exact .next ⟨by simp [h], by simp [hp], by simp [hv]⟩
    · exact complete_alike (by simp [h]) _

theorem openWindow_alike (k : Kind) (ver : Version) (len : TotalLength) :
    Alike (openWindow k ver len s) (openWindow k ver len t) := by
  refine consume_alike_of_visible h _ fun hltid => consume_alike_of_visible (by simp [hltid]) _ fun {u u'} hu => ?_
  rw [cur_eq_of_visible hu, stackFull_eq_of_visible hu]
  split
  · exact raise_alike (by simp [hu]) ..
  · split
    · exact raise_alike (by simp [hu]) ..
    · exact .next (agree_of_visible (by simp [hu]) (by simp) (by simp))

theorem openCount_alike (k : Kind) (ver : Version) (cnt : PacketCount) :
    Alike (openCount k ver cnt s) (openCount k ver cnt t) := by
  refine consume_alike_of_visible h _ fun hltid => consume_alike_of_visible (by simp [hltid]) _ fun {u u'} hu => ?_
  rw [cur_eq_of_visible hu, stackFull_eq_of_visible hu]
  split
  · exact raise_alike (by simp [hu]) ..
  · exact .next (agree_of_visible (by simp [hu]) (by simp) (by simp))

theorem nextWindow_alike (f : Frame) (total : TotalLength) (parent : Cursor) (rest : List Frame) :
    Alike (nextWindow f total parent rest s) (nextWindow f total parent rest t) := by
  unfold nextWindow
  rw [cur_eq_of_visible h, params_eq_of_visible h]
  split
  · split
    · exact raise_alike h ..
    · split
      · exact raise_alike (by simp [h]) ..
      · exact complete_alike (by simp [h]) _
  · exact .next (agree_of_visible (by simp [h]) (by simp) (by simp))

theorem nextCount_alike (f : Frame) (cnt : PacketCount) (rest : List Frame) :
    Alike (nextCount f cnt rest s) (nextCount f cnt rest t) := by
  unfold nextCount
  split
  · exact complete_alike (by simp [h]) _
  · exact .next (agree_of_visible (by simp [h]) (by simp) (by simp))

end

/-- Every type id but the literal's is that of a kind (30_encoding.md R66). -/
theorem typeId_of_ne_literal {t : TypeId} (h : t ≠ literalTypeId) : ∃ k : Kind, t = k.typeId := by
  cases hk : kindOf t with
  | none => exact absurd (kindOf_eq_none hk) h
  | some k => exact ⟨k, kindOf_eq_some hk⟩

/-- A sequencer step of a run takes states that agree to states that agree: what it reads, it reads at the same place of
the same buffer. -/
theorem sequencerStep_alike {s t : State} (h : Agree s t) (hrun : RunOk s) (hb : s.busy = true) :
    Alike (sequencerStep s) (sequencerStep t) := by
  obtain ⟨hv, hheader, hliteral⟩ := h
  have hphase := phase_eq_of_visible hv
  have hcur := cur_eq_of_visible hv
  have hc : CursorInBuffer s := hrun.cursorInBuffer
  have hc' : CursorInBuffer t := by
    unfold CursorInBuffer at hc ⊢
    rwa [← hcur, ← buflen_eq_of_visible hv]
  obtain ⟨-, hoph, hnext⟩ := hrun.phaseOk
  rcases busy_iff.1 hb with hp | hp | hp | hp
  · rw [sequencer_hdr hp hc, sequencer_hdr (hphase ▸ hp) hc', ← hcur, fieldAt_eq_of_visible hv,
      fieldAt_eq_of_visible hv]
    exact headerStep_alike hv ..
  · obtain ⟨hver, htid⟩ := hheader hp
    obtain ⟨k, hk⟩ := typeId_of_ne_literal (hoph hp)
    rw [sequencer_oph hp hk hc, sequencer_oph (hphase ▸ hp) (htid ▸ hk) hc', ← hcur, ← hver, mem_eq_of_visible hv,
      fieldAt_eq_of_visible hv, fieldAt_eq_of_visible hv]
    split
    · exact raise_alike hv ..
    · split
      · exact openCount_alike hv ..
      · exact openWindow_alike hv ..
  · obtain ⟨hver, hacc⟩ := hliteral hp
    rw [sequencer_lit hp hc, sequencer_lit (hphase ▸ hp) hc', ← hcur, fieldAt_eq_of_visible hv]
    exact groupStep_alike hv hp hver hacc _
  · obtain ⟨f, rest, hs⟩ := List.exists_cons_of_ne_nil (hnext hp)
    rw [sequencer_next hp hs, sequencer_next (hphase ▸ hp) (stk_eq_of_visible hv ▸ hs)]
    split
    · exact nextWindow_alike hv ..
    · exact nextCount_alike hv ..

/-! ## Whole runs -/

/-- Two machines some steps into a run that nothing from outside disturbs, or at its end, that agree. -/
structure InStep (s t : State) : Prop where
  agree : Agree s t
  undisturbed : s.inputs = []
  run : s.busy = true → RunOk s

theorem InStep.step {s t u : State} (h : InStep s t) (hs : step s = .next u) :
    ∃ u', step t = .next u' ∧ InStep u u' := by
  have hv := h.agree.visible
  rw [step_of_no_input h.undisturbed] at hs
  rw [step_of_no_input (inputs_eq_of_visible hv ▸ h.undisturbed)]
  cases hb : s.busy with
  | false =>
    rw [sequencer_waits hb] at hs
    obtain rfl := Host.Outcome.next.inj hs
    exact ⟨t, sequencer_waits (busy_eq_of_visible hv ▸ hb), h⟩
  | true =>
    have hrun := h.run hb
    have he := hrun.streamEnds hb hs
    obtain ⟨-, -, -, hinputs⟩ := he.sameBuffer
    have halike := sequencerStep_alike h.agree hrun hb
    rw [hs] at halike
    obtain ⟨u', hu', hagree⟩ := halike.of_next
    exact ⟨u', hu', hagree, hinputs.trans h.undisturbed, he.runOk hrun⟩

theorem InStep.run_next {n : Nat} : ∀ {s t u : State}, InStep s t → Sys2Proof.core.run n s = .next u →
    ∃ u', Sys2Proof.core.run n t = .next u' ∧ InStep u u' := by
  induction n with
  | zero =>
    intro s t u h hu
    obtain rfl := Host.Outcome.next.inj hu
    exact ⟨t, rfl, h⟩
  | succ n ih =>
    intro s t u h hu
    obtain ⟨v, hv, hu⟩ := run_succ_inv hu
    obtain ⟨v', hv', h'⟩ := h.step hv
    obtain ⟨u', hu', h''⟩ := ih h' hu
    exact ⟨u', (run_succ n hv').trans hu', h''⟩

/-- START makes two machines with the same parameters and buffer agree, whatever they held. -/
theorem startState_inStep {s t : State} (hparams : s.params = t.params) (hmem : s.mem = t.mem)
    (hlen : s.buflen = t.buflen) (hs : s.inputs = []) (ht : t.inputs = []) : InStep (startState s) (startState t) := by
  refine ⟨agree_of_visible ?_ (by simp) (by simp), hs, fun _ => startState_runOk s⟩
  simp [visible, startState, hparams, hmem, hlen, hs, ht]

theorem execStart_of_not_busy {s : State} (hb : s.busy = false) : exec .start s = .next (startState s) := by
  show execStart s = _
  unfold execStart
  rw [hb]; rfl

/-- Settles O49: the two machines agree after START and stay in step. -/
theorem runDependsOnBufferAlone : Obligations.RunDependsOnBufferAlone := by
  intro s s' a b hidle hidle' hs hs' hparams hmem hlen ha hb n t hn
  rw [execStart_of_not_busy hidle] at ha
  rw [execStart_of_not_busy hidle'] at hb
  obtain rfl := Host.Outcome.next.inj ha
  obtain rfl := Host.Outcome.next.inj hb
  obtain ⟨t', ht', h⟩ := (startState_inStep hparams hmem hlen hs hs').run_next hn
  exact ⟨t', ht', sameOutcome_of_visible h.agree.visible⟩

end Sys2Proof.Machine
end

section
/-! PROOFS of the family 20_memory.md: LOAD is the buffer's only store, and a read is the big-endian value of its
bits. -/

namespace Sys2Proof.Machine

open Sys2Proof Sys2Proof.Safety

/-! ## LOAD (20_memory.md R51) -/

theorem hostLoad_of_fits {bits : List Bool} {s : State} (hb : s.busy = false)
    (hfits : loadFits s.params bits.length = true) : hostLoad bits s = setBuffer bits s :=
  if_pos (by rw [hb, hfits]; rfl)

/-- Settles O32: the LOAD is accepted, and the store it leaves is the packed bits. -/
theorem loadReplacesBuffer : Obligations.LoadReplacesBuffer := by
  intro s bits r hi hb hmax
  have hload : hostLoad bits (setInputs r s) = setBuffer bits (setInputs r s) :=
    hostLoad_of_fits hb (loadFits_iff.2 hmax)
  refine ⟨packBits bits, ?_, packBits_wf bits, readBit_packBits bits⟩
  rw [step_of_input hi, takeInput, hload]
  rfl

/-! ## No instruction stores (20_memory.md R51, 70_reset_and_hazards.md R194) -/

theorem SameBuffer.refl (s : State) : SameBuffer s s := ⟨rfl, rfl, rfl, rfl⟩

theorem commandFails_sameBuffer {s t : State} (h : commandFails s = .next t) : SameBuffer s t := by
  unfold commandFails at h
  split at h
  · obtain rfl := raise_next h
    simp [SameBuffer]
  · obtain rfl := Host.Outcome.next.inj h
    simp [SameBuffer]

theorem execRdb_sameBuffer {n : CommandArg} {s t : State} (h : execRdb n s = .next t) : SameBuffer s t := by
  unfold execRdb at h
  split at h
  · split at h
    · exact commandFails_sameBuffer h
    · cases h
    · obtain rfl := Host.Outcome.next.inj h
      simp [SameBuffer]
  · cases h

theorem execSubv_sameBuffer {count : CommandArg} {s t : State} (h : execSubv count s = .next t) : SameBuffer s t := by
  unfold execSubv at h
  split at h
  · exact commandFails_sameBuffer h
  · obtain rfl := Host.Outcome.next.inj h
    simp [SameBuffer]

theorem execSkip_sameBuffer {count : CommandArg} {s t : State} (h : execSkip count s = .next t) : SameBuffer s t := by
  unfold execSkip at h
  split at h
  · exact commandFails_sameBuffer h
  · obtain rfl := Host.Outcome.next.inj h
    simp [SameBuffer]

theorem execStart_sameBuffer {s t : State} (h : execStart s = .next t) : SameBuffer s t := by
  unfold execStart at h
  split at h <;> obtain rfl := Host.Outcome.next.inj h
  · exact .refl s
  · simp [SameBuffer]

/-- An instruction is a form of the stream, which ends as `StreamEnds` lists, a cursor command or START, unless it is
SRESET. -/
theorem exec_sameBuffer {i : Instr} {s t : State} (h : exec i s = .next t) (hi : ∀ b, i ≠ .sreset b) :
    SameBuffer s t := by
  cases i
  case rdb => exact execRdb_sameBuffer h
  case exh => obtain rfl := Host.Outcome.next.inj h; simp [SameBuffer]
  case subv => exact execSubv_sameBuffer h
  case skip => exact execSkip_sameBuffer h
  case start => exact execStart_sameBuffer h
  case sreset b => exact absurd rfl (hi b)
  case grpC => exact (exec_stream_next h (.inr ⟨_, rfl⟩)).sameBuffer
  case grpF => exact (exec_stream_next h (.inr ⟨_, rfl⟩)).sameBuffer
  all_goals exact (exec_stream_next h (.inl ⟨_, rfl⟩)).sameBuffer

/-- SRESET, which leaves no buffer, keeps the model's own fields like any other instruction (log 18). -/
theorem exec_keeps_model_fields {i : Instr} {s t : State} (h : exec i s = .next t) :
    t.params = s.params ∧ t.inputs = s.inputs := by
  by_cases hi : ∃ b, i = .sreset b
  · obtain ⟨b, rfl⟩ := hi
    obtain rfl := Host.Outcome.next.inj h
    exact ⟨rfl, rfl⟩
  · obtain ⟨hparams, -, -, hinputs⟩ := exec_sameBuffer h (not_exists.1 hi)
    exact ⟨hparams, hinputs⟩

/-- Settles O35: every instruction but SRESET leaves the store itself as it was, so each byte and bit reads as before. -/
theorem instructionsNeverStore : Obligations.InstructionsNeverStore := by
  intro i s t h
  obtain ⟨hparams, hinputs⟩ := exec_keeps_model_fields h
  refine ⟨hparams, hinputs, fun hi => ?_⟩
  obtain ⟨-, hmem, hlen, -⟩ := exec_sameBuffer h hi
  rw [hmem]
  exact ⟨hlen, fun _ => rfl, fun _ => rfl⟩

/-! ## Reads are big-endian (20_memory.md R41) -/

/-- Each further bit doubles the weight of those before it. -/
theorem readNat_eq_sum (m : List Host.Cell) (a n : Nat) :
    readNat m a n = ∑ i ∈ Finset.range n, (readBit m (a + i)).toNat * 2 ^ (n - 1 - i) := by
  induction n with
  | zero => rfl
  | succ n ih =>
    have hdouble : ∀ i ∈ Finset.range n, 2 * ((readBit m (a + i)).toNat * 2 ^ (n - 1 - i)) =
        (readBit m (a + i)).toNat * 2 ^ (n + 1 - 1 - i) := fun i hi => by
      have hlt := Finset.mem_range.1 hi
      rw [show n + 1 - 1 - i = n - 1 - i + 1 by omega, pow_succ]
      ring
    rw [readNat, ih, Finset.mul_sum, Finset.sum_congr rfl hdouble, Finset.sum_range_succ]
    simp

/-- Adjacent bit strings concatenate, and so do their values. -/
theorem readNat_add (m : List Host.Cell) (a n k : Nat) :
    readNat m a (n + k) = readNat m a n * 2 ^ k + readNat m (a + n) k := by
  simp only [← bitsToNat_peek, peek_append, bitsToNat_append, peek_length]

/-- Settles O37: the sum by induction on the number of bits, the joint read by the concatenation of the bits. -/
theorem readsAreBigEndian : Obligations.ReadsAreBigEndian :=
  ⟨readNat_eq_sum, fun m a n k => (readNat_add m a n k).symm⟩

end Sys2Proof.Machine
end

section
/-! PROOFS of the family 30_encoding.md, part 1: decoder and encoder are inverse to each other in each of the four code
spaces, and no stream word is illegal. -/

namespace Sys2Proof

/-! ## Instructions by their format (30_encoding.md R61) -/

/-- A proof for every instruction is one for each format: LIT, OP0, OP1, the two groups, the four cursor commands and
the two control values. -/
theorem Instr.byFormat {motive : Instr → Prop} (lit : ∀ ver, motive (.lit ver))
    (op0 : ∀ k ver len, motive (Instr.ofL0 k ver len)) (op1 : ∀ k ver cnt, motive (Instr.ofL1 k ver cnt))
    (grpC : ∀ d, motive (.grpC d)) (grpF : ∀ d, motive (.grpF d))
    (rdb : ∀ n, motive (.rdb n)) (exh : ∀ arg, motive (.exh arg)) (subv : ∀ c, motive (.subv c))
    (skip : ∀ c, motive (.skip c)) (start : motive .start) (sreset : ∀ b, motive (.sreset b)) : ∀ i, motive i
  | .lit ver => lit ver
  | .sumL0 ver len => op0 .sum ver len
  | .sumL1 ver cnt => op1 .sum ver cnt
  | .prodL0 ver len => op0 .product ver len
  | .prodL1 ver cnt => op1 .product ver cnt
  | .minL0 ver len => op0 .min ver len
  | .minL1 ver cnt => op1 .min ver cnt
  | .maxL0 ver len => op0 .max ver len
  | .maxL1 ver cnt => op1 .max ver cnt
  | .gtL0 ver len => op0 .greaterThan ver len
  | .gtL1 ver cnt => op1 .greaterThan ver cnt
  | .ltL0 ver len => op0 .lessThan ver len
  | .ltL1 ver cnt => op1 .lessThan ver cnt
  | .eqL0 ver len => op0 .equalTo ver len
  | .eqL1 ver cnt => op1 .equalTo ver cnt
  | .grpC d => grpC d
  | .grpF d => grpF d
  | .rdb n => rdb n
  | .exh arg => exh arg
  | .subv c => subv c
  | .skip c => skip c
  | .start => start
  | .sreset b => sreset b

/-! ## Packet headers (30_encoding.md R62, R64 to R66) -/

theorem decodeOperator_l0 (ver : Version) (k : Kind) (len : TotalLength) (rest : List Bool) :
    decodeOperator ver k (false :: (fieldBits len ++ rest)) = .ok (Instr.ofL0 k ver len, rest) := by
  rw [decodeOperator, takeField_fieldBits]

theorem decodeOperator_l1 (ver : Version) (k : Kind) (cnt : PacketCount) (rest : List Bool) :
    decodeOperator ver k (true :: (fieldBits cnt ++ rest)) = .ok (Instr.ofL1 k ver cnt, rest) := by
  rw [decodeOperator, takeField_fieldBits]

theorem decodeHeader_literal (ver : Version) (rest : List Bool) :
    decodeHeader (fieldBits ver ++ fieldBits literalTypeId ++ rest) = .ok (.lit ver, rest) := by
  rw [Machine.decodeHeader_of_fields, kindOf_literal]

theorem decodeHeader_operator (ver : Version) (k : Kind) (rest : List Bool) :
    decodeHeader (fieldBits ver ++ fieldBits k.typeId ++ rest) = decodeOperator ver k rest := by
  rw [Machine.decodeHeader_of_fields, kindOf_typeId]

theorem encode_decodeHeader {i : Instr} {bits rest : List Bool} (h : decodeHeader bits = .ok (i, rest)) :
    ∃ form, encode i = .header form ∧ bits = form ++ rest := by
  obtain ⟨ver, rfl, rfl⟩ | ⟨k, ver, len, rfl, rfl⟩ | ⟨k, ver, cnt, rfl, rfl⟩ := Machine.decodeHeader_cases h
  · exact ⟨_, rfl, (List.append_assoc ..).symm⟩
  · exact ⟨_, encode_ofL0 k ver len, by simp⟩
  · exact ⟨_, encode_ofL1 k ver cnt, by simp⟩

/-! ## Literal groups (30_encoding.md R63) -/

theorem decodeGroup_fields (more : Bool) (d : Nibble) (rest : List Bool) :
    decodeGroup (more :: (fieldBits d ++ rest)) = .ok (if more then .grpC d else .grpF d, rest) := by
  rw [decodeGroup, takeField_fieldBits]

/-- All a group that decodes can be. -/
theorem decodeGroup_cases {i : Instr} {bits rest : List Bool} (h : decodeGroup bits = .ok (i, rest)) :
    ∃ more d, i = (if more then .grpC d else .grpF d) ∧ bits = more :: (fieldBits d ++ rest) := by
  unfold decodeGroup at h
  split at h
  · cases h
  rename_i more tail
  split at h
  · cases h
  · rename_i d after hd
    obtain ⟨rfl, rfl⟩ := Prod.mk.inj (Except.ok.inj h)
    exact ⟨more, d, rfl, by rw [takeField_eq_some hd]⟩

theorem encode_decodeGroup {i : Instr} {bits rest : List Bool} (h : decodeGroup bits = .ok (i, rest)) :
    ∃ form, encode i = .group form ∧ bits = form ++ rest := by
  obtain ⟨more, d, rfl, rfl⟩ := decodeGroup_cases h
  cases more <;> exact ⟨_, rfl, rfl⟩

/-! ## Cursor command words and control values (30_encoding.md R75, R76) -/

theorem bitVec_two_cases (v : BitVec 2) : v = 0 ∨ v = 1 ∨ v = 2 ∨ v = 3 := by
  revert v; decide

/-- A command word is its operation and its ARG. -/
theorem exists_commandWord (w : CommandWord) : ∃ op arg, w = commandWord op arg :=
  ⟨w.extractLsb' 15 2, w.extractLsb' 0 15, by
    rw [commandWord, BitVec.extractLsb'_append_extractLsb'_eq_extractLsb' (by rfl), BitVec.extractLsb'_eq_self]⟩

/-- The operation is read from CMD[16:15], whatever ARG is. -/
theorem decodeCommand_commandWord (op : BitVec 2) (arg : CommandArg) :
    decodeCommand (commandWord op arg) =
      if op.getLsbD 1 then if op.getLsbD 0 then .skip arg else .subv arg
      else if op.getLsbD 0 then .exh arg else .rdb arg := by
  have hhigh : (commandWord op arg).getLsbD 16 = op.getLsbD 1 := BitVec.getLsbD_append
  have hlow : (commandWord op arg).getLsbD 15 = op.getLsbD 0 := BitVec.getLsbD_append
  have harg : (commandWord op arg).extractLsb' 0 15 = arg := BitVec.extractLsb'_append_eq_right
  rw [decodeCommand, hhigh, hlow, harg]

theorem encode_decodeCommand (w : CommandWord) : encode (decodeCommand w) = .command w := by
  obtain ⟨op, arg, rfl⟩ := exists_commandWord w
  rw [decodeCommand_commandWord]
  rcases bitVec_two_cases op with rfl | rfl | rfl | rfl <;> rfl

theorem encode_decodeControl {i : Instr} {v : Control} (h : decodeControl v = .ok i) : encode i = .control v := by
  rcases bitVec_two_cases v with rfl | rfl | rfl | rfl
  · cases h
  all_goals obtain rfl := Except.ok.inj h; rfl

/-! ## The round trips -/

/-- The decoder of the code space a word belongs to reads it as `i`, in the stream whatever bits follow. -/
def Code.ReadsAs (i : Instr) : Code → Prop
  | .header bits => ∀ rest, decodeHeader (bits ++ rest) = .ok (i, rest)
  | .group bits => ∀ rest, decodeGroup (bits ++ rest) = .ok (i, rest)
  | .command w => decodeCommand w = i
  | .control v => decodeControl v = .ok i

theorem encode_readsAs (i : Instr) : (encode i).ReadsAs i := by
  induction i using Instr.byFormat with
  | lit ver => exact decodeHeader_literal ver
  | op0 k ver len =>
    rw [encode_ofL0]
    intro rest
    rw [List.append_assoc, decodeHeader_operator, List.cons_append, decodeOperator_l0]
  | op1 k ver cnt =>
    rw [encode_ofL1]
    intro rest
    rw [List.append_assoc, decodeHeader_operator, List.cons_append, decodeOperator_l1]
  | grpC d => exact decodeGroup_fields true d
  | grpF d => exact decodeGroup_fields false d
  | rdb n => exact decodeCommand_commandWord 0 n
  | exh arg => exact decodeCommand_commandWord 1 arg
  | subv c => exact decodeCommand_commandWord 2 c
  | skip c => exact decodeCommand_commandWord 3 c
  | start => rfl
  | sreset b => cases b <;> rfl

theorem Code.ReadsAs.decode {i : Instr} {c : Code} (h : c.ReadsAs i) : decode c = .ok i := by
  cases c with
  | header bits =>
    have hd : decodeHeader bits = .ok (i, []) := by simpa using h []
    rw [Sys2Proof.decode, hd]; rfl
  | group bits =>
    have hd : decodeGroup bits = .ok (i, []) := by simpa using h []
    rw [Sys2Proof.decode, hd]; rfl
  | command w => exact congrArg Except.ok h
  | control v => exact h

/-- Settles O2: by format, the decoder takes the fields the encoder wrote off the front of the word. -/
theorem decodeEncodeRoundTrip : Obligations.DecodeEncodeRoundTrip := by
  refine ⟨fun i => (encode_readsAs i).decode, fun i bits rest h => ?_, fun i bits rest h => ?_⟩
  all_goals
    have hreads := encode_readsAs i
    rw [h] at hreads
    exact hreads rest

/-- Settles O3: each decoder's cases name the fields it read, and those are the fields the encoder writes. -/
theorem encodeDecodeRoundTrip : Obligations.EncodeDecodeRoundTrip :=
  ⟨fun _ _ _ h => encode_decodeHeader h, fun _ _ _ h => encode_decodeGroup h, encode_decodeCommand,
    fun _ _ h => encode_decodeControl h⟩

/-! ## No stream word is illegal (30_encoding.md R71) -/

/-- Any `n` bits are a field of `n` bits. -/
theorem exists_field {n : Nat} {bits : List Bool} (h : n ≤ bits.length) :
    ∃ (v : BitVec n) (rest : List Bool), bits = fieldBits v ++ rest ∧ rest.length = bits.length - n :=
  ⟨_, _, takeField_eq_some (takeField_of_le h), List.length_drop ..⟩

theorem decodeOperator_total (ver : Version) (k : Kind) {bits : List Bool} (h : 16 ≤ bits.length) :
    ∃ i rest, decodeOperator ver k bits = .ok (i, rest) := by
  obtain _ | ⟨ltid, tail⟩ := bits
  · simp at h
  rw [List.length_cons] at h
  cases ltid
  · obtain ⟨len, rest, rfl, -⟩ := exists_field (n := 15) (bits := tail) (by omega)
    exact ⟨_, _, decodeOperator_l0 ver k len rest⟩
  · obtain ⟨cnt, rest, rfl, -⟩ := exists_field (n := 11) (bits := tail) (by omega)
    exact ⟨_, _, decodeOperator_l1 ver k cnt rest⟩

theorem decodeHeader_total {bits : List Bool} (h : 22 ≤ bits.length) :
    ∃ i rest, decodeHeader bits = .ok (i, rest) := by
  obtain ⟨ver, afterVer, rfl, hver⟩ := exists_field (n := 3) (bits := bits) (by omega)
  obtain ⟨tid, afterTid, rfl, htid⟩ := exists_field (n := 3) (bits := afterVer) (by omega)
  rw [← List.append_assoc]
  cases hk : kindOf tid with
  | none =>
    obtain rfl := kindOf_eq_none hk
    exact ⟨_, _, decodeHeader_literal ver afterTid⟩
  | some k =>
    obtain rfl := kindOf_eq_some hk
    rw [decodeHeader_operator]
    exact decodeOperator_total ver k (by omega)

theorem decodeGroup_total {bits : List Bool} (h : 5 ≤ bits.length) :
    ∃ i rest, decodeGroup bits = .ok (i, rest) := by
  obtain _ | ⟨more, tail⟩ := bits
  · simp at h
  obtain ⟨d, rest, rfl, -⟩ := exists_field (n := 4) (bits := tail) (by simpa using h)
  exact ⟨_, _, decodeGroup_fields more d rest⟩

/-- Settles O4: the kind map is total but for the literal's type id, and every value of every field is legal. -/
theorem everyStreamWordDecodes : Obligations.EveryStreamWordDecodes :=
  ⟨fun _ h => decodeHeader_total h, fun _ h => decodeGroup_total h⟩

/-- Settles O1: the twelve words are fixed, and the decoders compute. -/
theorem specWordsDecode : Obligations.SpecWordsDecode := by
  unfold Obligations.SpecWordsDecode; decide

end Sys2Proof
end

section
/-! PROOFS of the family 30_encoding.md, part 2: the value of a literal (R69), by one group and by the recursive
definition. -/

namespace Sys2Proof.Machine

open Sys2Proof

/-- Settles O21: ACC[63:60] = 0 is the accumulator's own test for room. -/
theorem accumulatorTakesNibble : Obligations.AccumulatorTakesNibble := fun _ _ h =>
  toNat_accumulate (decide_eq_false (not_not.2 h))

/-! ## The groups of a literal and their value (30_encoding.md R63, R69) -/

/-- The value that nibbles add to the value `v` of those before them. -/
def groupsValue (v : Nat) (ds : List Nibble) : Nat := ds.foldl (fun v d => 16 * v + d.toNat) v

@[simp] theorem groupsValue_cons (v : Nat) (d : Nibble) (ds : List Nibble) :
    groupsValue v (d :: ds) = groupsValue (16 * v + d.toNat) ds := rfl

theorem le_groupsValue (v : Nat) (ds : List Nibble) : v ≤ groupsValue v ds := by
  induction ds generalizing v with
  | nil => exact le_rfl
  | cons d ds ih =>
    have hrest := ih (16 * v + d.toNat)
    rw [groupsValue_cons]; omega

/-- A value below 2^64 never met the overflow test on the way. -/
theorem accFull_of_groupsValue_lt {acc : Value} {d : Nibble} {ds : List Nibble}
    (h : groupsValue acc.toNat (d :: ds) < 2 ^ 64) : accFull acc = false := by
  have hle := le_groupsValue (16 * acc.toNat + d.toNat) ds
  rw [groupsValue_cons] at h
  exact accFull_eq_false.2 (by omega)

/-- The groups in stream order: all but the last say that another follows. -/
def literalGroups (ds : List Nibble) (last : Nibble) : List Bool :=
  ds.flatMap (fun d => true :: fieldBits d) ++ false :: fieldBits last

theorem fieldBits_groupOf (more : Bool) (d : Nibble) : fieldBits (groupOf more d) = more :: fieldBits d := by
  revert more d; decide

theorem literalGroups_nil (last : Nibble) : literalGroups [] last = fieldBits (groupOf false last) :=
  (fieldBits_groupOf false last).symm

theorem literalGroups_cons (d : Nibble) (ds : List Nibble) (last : Nibble) :
    literalGroups (d :: ds) last = fieldBits (groupOf true d) ++ literalGroups ds last := by
  simp [literalGroups, fieldBits_groupOf]

/-! ## Reads of the recursive definition in a loaded buffer -/

/-- The root cursor of a loaded buffer, `pos` bits read. -/
def loadedCursor (bits : List Bool) (pos : Nat) : Cursor := { rootCursor bits.length with pos := pos }

theorem peek_packBits {bits : List Bool} {a n : Nat} (h : n ≤ bits.length - a) :
    peek (packBits bits) a n = (bits.drop a).take n := by
  induction n generalizing a with
  | zero => rfl
  | succ n ih =>
    have ha : a < bits.length := by omega
    rw [peek, ih (by omega), readBit_packBits, List.getD_eq_getElem _ _ ha, List.drop_eq_getElem_cons ha,
      List.take_succ_cons]

theorem refRead_packBits {n pos : Nat} {bits post : List Bool} {v : BitVec n}
    (h : bits.drop pos = fieldBits v ++ post) :
    refRead (packBits bits) n (loadedCursor bits pos) = some (v, loadedCursor bits (pos + n)) := by
  have hlen : n ≤ bits.length - pos := by rw [← List.length_drop, h]; simp
  have hrem : ¬(loadedCursor bits pos).rem < n := Nat.not_lt.2 hlen
  have hread : readNat (packBits bits) (loadedCursor bits pos).addr n = bitsToNat (fieldBits v) := by
    rw [loadedCursor, rootCursor, Cursor.addr_mk, Nat.zero_add, ← bitsToNat_peek, peek_packBits hlen, h,
      List.take_left' (fieldBits_length v)]
  rw [refRead, if_neg hrem, hread, ofNat_bitsToNat_fieldBits]
  rfl

theorem drop_of_drop_field {n pos : Nat} {bits post : List Bool} {v : BitVec n}
    (h : bits.drop pos = fieldBits v ++ post) : bits.drop (pos + n) = post := by
  rw [← List.drop_drop, h, List.drop_left' (fieldBits_length v)]

/-! ## A literal by the recursive definition (41_packet_decoder.md R102, R118) -/

theorem refPacket_literal {p : Params} {bits post : List Bool} {ver : Version} {pos fuel d : Nat}
    (h : bits.drop pos = fieldBits ver ++ (fieldBits literalTypeId ++ post)) :
    refPacket p (packBits bits) (fuel + 1) (loadedCursor bits pos) d =
      refGroups (packBits bits) ver fuel 0 (loadedCursor bits (pos + 6)) := by
  rw [refPacket, refRead_packBits h]
  dsimp only
  rw [refRead_packBits (drop_of_drop_field h)]
  rfl

/-- One turn of the group loop where the accumulator has room. -/
theorem refGroups_turn {bits post : List Bool} {ver : Version} {more : Bool} {d : Nibble} {pos fuel : Nat} {acc : Value}
    (h : bits.drop pos = fieldBits (groupOf more d) ++ post) (hacc : accFull acc = false) :
    refGroups (packBits bits) ver (fuel + 1) acc (loadedCursor bits pos) =
      if more then refGroups (packBits bits) ver fuel (accumulate acc d) (loadedCursor bits (pos + 5))
      else .ok (.literal ver (accumulate acc d)) (loadedCursor bits (pos + 5)) := by
  rw [refGroups, refRead_packBits h]
  simp [hacc]

/-- The group loop reads the groups to the last and answers the value they add to the accumulator's. -/
theorem refGroups_literalGroups {bits pad : List Bool} {ver : Version} {last : Nibble} {ds : List Nibble}
    {pos fuel : Nat} {acc : Value} (h : bits.drop pos = literalGroups ds last ++ pad)
    (hvalue : groupsValue acc.toNat (ds ++ [last]) < 2 ^ 64) (hfuel : ds.length < fuel) :
    refGroups (packBits bits) ver fuel acc (loadedCursor bits pos) =
      .ok (.literal ver (BitVec.ofNat 64 (groupsValue acc.toNat (ds ++ [last]))))
        (loadedCursor bits (pos + 5 * (ds.length + 1))) := by
  induction ds generalizing pos fuel acc with
  | nil =>
    obtain ⟨fuel, rfl⟩ := Nat.exists_eq_add_one.2 hfuel
    rw [literalGroups_nil] at h
    have hacc := accFull_of_groupsValue_lt hvalue
    have hsum : groupsValue acc.toNat ([] ++ [last]) = (accumulate acc last).toNat := (toNat_accumulate hacc).symm
    rw [refGroups_turn h hacc, hsum, BitVec.ofNat_toNat, BitVec.setWidth_eq]
    rfl
  | cons d ds ih =>
    obtain ⟨fuel, rfl⟩ := Nat.exists_eq_add_one.2 (Nat.zero_lt_of_lt hfuel)
    rw [literalGroups_cons, List.append_assoc] at h
    have hacc := accFull_of_groupsValue_lt hvalue
    have hsum : groupsValue acc.toNat (d :: ds ++ [last]) = groupsValue (accumulate acc d).toNat (ds ++ [last]) := by
      rw [toNat_accumulate hacc]; rfl
    rw [hsum] at hvalue ⊢
    rw [refGroups_turn h hacc, if_pos rfl, ih (drop_of_drop_field h) hvalue (Nat.lt_of_succ_lt_succ hfuel),
      List.length_cons, show pos + 5 + 5 * (ds.length + 1) = pos + 5 * (ds.length + 1 + 1) by omega]

/-- Settles O60: the header is read, then the groups by induction on their number. -/
theorem literalRoundTrip : Obligations.LiteralRoundTrip := by
  intro p ver ds last pad fuel d value bits hvalue hfuel
  obtain ⟨fuel, rfl⟩ := Nat.exists_eq_add_one.2 (Nat.lt_of_lt_of_le (Nat.succ_pos _) hfuel)
  have hstart : (bits ++ pad).drop 0 =
      fieldBits ver ++ (fieldBits literalTypeId ++ (literalGroups ds last ++ pad)) := by
    simp [bits, literalGroups]
  have hgroups : (bits ++ pad).drop (0 + 3 + 3) = literalGroups ds last ++ pad :=
    drop_of_drop_field (drop_of_drop_field hstart)
  exact (refPacket_literal hstart).trans (refGroups_literalGroups hgroups hvalue (by omega))

end Sys2Proof.Machine
end

section
/-! PROOFS of the family 40_bitcursor.md: what each cursor command answers, by whether its bits are left. -/

namespace Sys2Proof.Machine

open Sys2Proof Sys2Proof.Safety

/-! ## `read_bits(n)` (40_bitcursor.md R81) -/

theorem readBits_of_lt {n : Nat} {s : State} (h : s.cur.rem < n) : readBits n s = .short := if_pos h

theorem memRead_of_le {n a : Nat} {s : State} (h1 : 1 ≤ n) (h16 : n ≤ 16) (h : a + n ≤ s.buflen) :
    memRead s a n = some (readNat s.mem a n) := if_pos ⟨h1, h16, h⟩

/-- Bits left on a cursor in the buffer are bits of the buffer. -/
theorem addr_add_le_buflen {n : Nat} {s : State} (hc : CursorInBuffer s) (h : n ≤ s.cur.rem) :
    s.cur.addr + n ≤ s.buflen := by
  obtain ⟨hpos, hlen⟩ := hc
  unfold Cursor.rem at h
  unfold Cursor.addr
  omega

theorem readBits_of_le {n : Nat} {s : State} (h1 : 1 ≤ n) (h16 : n ≤ 16) (hc : CursorInBuffer s)
    (h : n ≤ s.cur.rem) : readBits n s = .data (readNat s.mem s.cur.addr n) := by
  rw [readBits, if_neg (Nat.not_lt.2 h), memRead_of_le h1 h16 (addr_add_le_buflen hc h)]

/-! ## RDB (40_bitcursor.md R81, R85) -/

/-- What a completed read of `n` bits returns, zero-extended to RDATA. -/
def readValue (n : Nat) (s : State) : BitVec 16 := BitVec.ofNat 16 (readNat s.mem s.cur.addr n)

/-- The state a completed RDB `n` leaves. -/
def afterRead (n : Nat) (s : State) : State := setResponse (.data (readValue n s)) (advance n (readValue n s) s)

@[simp] theorem afterRead_mem (n : Nat) (s : State) : (afterRead n s).mem = s.mem := rfl
@[simp] theorem afterRead_rdata (n : Nat) (s : State) : (afterRead n s).rdata = readValue n s := rfl
@[simp] theorem afterRead_cur (n : Nat) (s : State) :
    (afterRead n s).cur = { s.cur with pos := s.cur.pos + n } := rfl

theorem addr_afterRead (n : Nat) (s : State) : (afterRead n s).cur.addr = s.cur.addr + n :=
  addr_advance n (readValue n s) s

theorem rem_afterRead (n : Nat) (s : State) : (afterRead n s).cur.rem = s.cur.rem - n :=
  rem_advance n (readValue n s) s

theorem cursorInBuffer_afterRead {n : Nat} {s : State} (hc : CursorInBuffer s) (h : n ≤ s.cur.rem) :
    CursorInBuffer (afterRead n s) := by
  obtain ⟨hpos, hlen⟩ := hc
  unfold Cursor.rem at h
  have hpos' : s.cur.pos + n ≤ s.cur.len := by omega
  exact ⟨hpos', hlen⟩

/-- RDATA is wide enough for every width RDB has. -/
theorem toNat_readValue {n : Nat} (h16 : n ≤ 16) (s : State) :
    (readValue n s).toNat = readNat s.mem s.cur.addr n := by
  have hlt := Nat.lt_of_lt_of_le (readNat_lt s.mem s.cur.addr n) (Nat.pow_le_pow_right Nat.two_pos h16)
  rw [readValue, BitVec.toNat_ofNat, Nat.mod_eq_of_lt hlt]

theorem exec_rdb_of_le {n : CommandArg} {s : State} (h1 : 1 ≤ n.toNat) (h16 : n.toNat ≤ 16)
    (hc : CursorInBuffer s) (h : n.toNat ≤ s.cur.rem) : exec (.rdb n) s = .next (afterRead n.toNat s) := by
  change execRdb n s = _
  rw [execRdb, if_pos ⟨h1, h16⟩, readBits_of_le h1 h16 hc h]
  rfl

/-- A width that exceeds what remains is not 0, so RDB is in its domain where it is at most 16. -/
theorem exec_rdb_of_lt {n : CommandArg} {s : State} (h16 : n.toNat ≤ 16) (h : s.cur.rem < n.toNat) :
    exec (.rdb n) s = commandFails s := by
  change execRdb n s = _
  rw [execRdb, if_pos ⟨Nat.one_le_of_lt h, h16⟩, readBits_of_lt h]

/-- Settles O22: the bits left lie in the buffer, where MemRead is defined. -/
theorem readBitsCompletes : Obligations.ReadBitsCompletes := fun _ s h1 h16 hc h =>
  ⟨exec_rdb_of_le h1 h16 hc h, readNat_lt s.mem s.cur.addr _⟩

/-- Settles O23: such a width fails RDB's own test of its domain. -/
theorem readWidthRefused : Obligations.ReadWidthRefused := fun _ _ h => if_neg (by omega)

/-- Settles O38: the second read starts where the first ended, and adjacent reads join (20_memory.md R41). -/
theorem readSplit : Obligations.ReadSplit := by
  intro n k nk s hn hk hnk h16 hc hrem
  have hn16 : n.toNat ≤ 16 := by omega
  have hk16 : k.toNat ≤ 16 := by omega
  have hnrem : n.toNat ≤ s.cur.rem := by omega
  have hkrem : k.toNat ≤ (afterRead n.toNat s).cur.rem := by rw [rem_afterRead]; omega
  refine ⟨_, _, _, exec_rdb_of_le hn hn16 hc hnrem, exec_rdb_of_le hk hk16 (cursorInBuffer_afterRead hc hnrem) hkrem,
    exec_rdb_of_le (by omega) h16 hc hrem, ?_, ?_⟩
  · simp only [afterRead_cur, hnk, Nat.add_assoc]
  · simp only [afterRead_rdata, toNat_readValue hn16, toNat_readValue hk16, toNat_readValue h16, addr_afterRead,
      afterRead_mem]
    rw [hnk, readNat_add]

/-! ## EXH, SUBV and SKIP (40_bitcursor.md R82 to R84) -/

/-- Settles O24: REM is LEN - POS, and EXH has one case. -/
theorem isExhaustedCompletes : Obligations.IsExhaustedCompletes := fun _ _ => rfl

theorem exec_subv_of_le {c : CommandArg} {s : State} (h : c.toNat ≤ s.cur.rem) :
    exec (.subv c) s = .next (setResponse (.view { base := s.cur.addr, len := c.toNat, pos := 0 }) s) := by
  change execSubv c s = _
  rw [execSubv, Cursor.subView_of_le h]

theorem exec_subv_of_lt {c : CommandArg} {s : State} (h : s.cur.rem < c.toNat) :
    exec (.subv c) s = commandFails s := by
  change execSubv c s = _
  rw [execSubv, Cursor.subView_of_lt h]

theorem exec_skip_of_le {c : CommandArg} {s : State} (h : c.toNat ≤ s.cur.rem) :
    exec (.skip c) s = .next (setResponse .skipped (setCur { s.cur with pos := s.cur.pos + c.toNat } s)) := by
  change execSkip c s = _
  rw [execSkip, Cursor.skip_of_le h]

theorem exec_skip_of_lt {c : CommandArg} {s : State} (h : s.cur.rem < c.toNat) :
    exec (.skip c) s = commandFails s := by
  change execSkip c s = _
  rw [execSkip, Cursor.skip_of_lt h]

/-- Settles O25: the bits left are REM, and A is BASE + POS. -/
theorem subViewCompletes : Obligations.SubViewCompletes := fun _ _ h => exec_subv_of_le h

/-- Settles O26: the bits left are REM, and only CUR is written. -/
theorem skipCompletes : Obligations.SkipCompletes := fun _ _ h => exec_skip_of_le h

/-! ## Commands that raise (40_bitcursor.md R86, 60_exceptions.md R171) -/

theorem commandFails_of_busy {s : State} (h : s.busy = true) :
    commandFails s = .next (faultEntry .unexpectedEnd s.cur.addr (setResponse .failed s)) := if_pos h

/-- Settles O27: the three commands end in the one failure, in a run or outside one. -/
theorem cursorCommandsRaise : Obligations.CursorCommandsRaise := fun _ _ h =>
  ⟨fun h16 => exec_rdb_of_lt h16 h, exec_subv_of_lt h, exec_skip_of_lt h⟩

/-- Settles O39: at most one bit is left, so a read of two raises. -/
theorem exhaustedReadsRaise : Obligations.ExhaustedReadsRaise := by
  intro n s hslack hexh h2 h16 hb
  have hrem : s.cur.rem ≤ s.params.exhSlack := of_decide_eq_true hexh
  have hshort : s.cur.rem < n.toNat := by omega
  exact ⟨_, (exec_rdb_of_lt h16 hshort).trans (commandFails_of_busy hb), rfl, rfl, rfl, rfl, rfl⟩

end Sys2Proof.Machine
end

section
/-! PROOFS of the family 41_packet_decoder.md, part 1: every run ends, within as many steps as the buffer has bits and
one more (R128). -/

namespace Sys2Proof.Machine

open Sys2Proof Sys2Proof.Safety

/-! ## A run that nothing from outside disturbs -/

/-- Nothing is pending from outside, and what a run keeps holds if one is going on. -/
structure Undisturbed (s : State) : Prop where
  inputs : s.inputs = []
  run : s.busy = true → RunOk s

theorem undisturbed_of_started {s : State} (h : Started s) : Undisturbed s := by
  obtain ⟨hinputs, hphase, hcur, hstk⟩ := h
  refine ⟨hinputs, fun _ => StackOk.runOk_of_hdr ?_ hphase⟩
  unfold StackOk State.sp
  rw [hcur, hstk]
  exact ⟨⟨rfl, rfl, Nat.zero_le _⟩, fun _ _ => Nat.zero_le _, Nat.zero_le _⟩

/-- The one inversion of a step in a run: it does a thing `StreamEnds` lists, and nothing disturbs the rest. -/
theorem Undisturbed.next {s : State} (h : Undisturbed s) (hb : s.busy = true) :
    ∃ t, step s = .next t ∧ StreamEnds s t ∧ Undisturbed t := by
  have hrun := h.run hb
  obtain ⟨-, hoph, hnext⟩ := hrun.phaseOk
  obtain ⟨t, ht, he⟩ := sequencer_ends hb hrun.cursorInBuffer hoph hnext
  obtain ⟨-, -, -, hinputs⟩ := he.sameBuffer
  exact ⟨t, (step_of_no_input h.inputs).trans ht, he, hinputs.trans h.inputs, he.runOk hrun⟩

/-! ## The steps that are left (41_packet_decoder.md R128) -/

/-- A bound on the steps left: one for every bit not yet read, one for the NEXT step that pops each open operator, one
for the step that may fail, and one for the NEXT step the machine stands at. -/
def stepsLeft (s : State) : Nat := s.buflen - s.cur.addr + s.sp + if s.phase = .next then 2 else 1

theorem addr_add_rem_le_buflen {s : State} (h : CursorInBuffer s) : s.cur.addr + s.cur.rem ≤ s.buflen :=
  addr_add_le_buflen h le_rfl

/-- A header takes six bits: one for its step, the others to spare. -/
theorem HeaderEnds.stepsLeft_lt {v : Version} {tid : TypeId} {s t : State} (he : HeaderEnds v tid s t)
    (hc : CursorInBuffer s) (hb : t.busy = true) : stepsLeft t < stepsLeft s := by
  have hend := addr_add_rem_le_buflen hc
  have haddr := addr_afterHeader v tid s
  unfold stepsLeft State.sp
  cases he with
  | noVersion => simp at hb
  | noTypeId => simp at hb
  | literal h6 => simp at haddr ⊢; omega
  | operator h6 => simp at haddr ⊢; omega

/-- A completion that does not end the run leaves the stack as high as it was, and the parent's NEXT step. -/
theorem stepsLeft_complete {p : Packet} {s : State} (hb : (complete p s).busy = true) :
    stepsLeft (complete p s) = s.buflen - s.cur.addr + s.sp + 2 := by
  rcases complete_cases p s with ⟨-, hc⟩ | ⟨f, rest, hs, hc⟩ <;> rw [hc] at hb ⊢
  · simp at hb
  · simp [stepsLeft, State.sp, hs]

/-- A group takes five bits: one for its step, one for the parent's NEXT step if it is the last. -/
theorem GroupEnds.stepsLeft_lt {g : BitVec 5} {s t : State} (he : GroupEnds g s t) (hp : s.phase = .lit)
    (hc : CursorInBuffer s) (hb : t.busy = true) : stepsLeft t < stepsLeft s := by
  have hend := addr_add_rem_le_buflen hc
  have haddr := addr_afterGroup g s
  cases he with
  | noGroup => simp at hb
  | overflow => simp at hb
  | more h5 => simp [stepsLeft, State.sp, hp] at haddr ⊢; omega
  | last h5 => rw [stepsLeft_complete hb]; simp [stepsLeft, State.sp, hp] at haddr ⊢; omega

/-- A length takes sixteen bits: one for the step, two for the new frame's NEXT step and its pop. -/
theorem WindowEnds.stepsLeft_lt {k : Kind} {ver : Version} {len : TotalLength} {s t : State}
    (he : WindowEnds k ver len s t) (hp : s.phase = .oph) (hc : CursorInBuffer s) (hb : t.busy = true) :
    stepsLeft t < stepsLeft s := by
  have hend := addr_add_rem_le_buflen hc
  unfold stepsLeft State.sp
  cases he with
  | noLengthType => simp at hb
  | noLength => simp at hb
  | tooLong => simp at hb
  | tooDeep => simp at hb
  | pushed hl => simp [hp]; omega

/-- A count takes twelve bits: as for a length. -/
theorem CountEnds.stepsLeft_lt {k : Kind} {ver : Version} {cnt : PacketCount} {s t : State}
    (he : CountEnds k ver cnt s t) (hp : s.phase = .oph) (hc : CursorInBuffer s) (hb : t.busy = true) :
    stepsLeft t < stepsLeft s := by
  have hend := addr_add_rem_le_buflen hc
  have haddr := addr_afterCount cnt s
  unfold stepsLeft State.sp
  cases he with
  | noLengthType => simp at hb
  | noCount => simp at hb
  | tooDeep => simp at hb
  | pushed h12 => simp [hp] at haddr ⊢; omega

/-- A NEXT step reads nothing: it pops a frame, or it leads to the header of another child. -/
theorem NextEnds.stepsLeft_lt {f : Frame} {rest : List Frame} {s t : State} (he : NextEnds f rest s t)
    (hp : s.phase = .next) (hs : s.stk = f :: rest) (hstack : StackOk s) (hb : t.busy = true) :
    stepsLeft t < stepsLeft s := by
  have hsp : s.sp = rest.length + 1 := by rw [State.sp, hs, List.length_cons]
  have hleft : stepsLeft s = s.buflen - s.cur.addr + s.sp + 2 := by rw [stepsLeft, if_pos hp]
  rw [hleft, hsp]
  cases he with
  | child => simp [stepsLeft, State.sp, hs]
  | mismatch => simp at hb
  | badParent => simp at hb
  | closed total parent hm _ hpos =>
    have haddr := (hstack.closed hs hm hpos).2
    rw [stepsLeft_complete hb, setStk_cur, setCur_cur, Cursor.addr_forward, haddr]
    simp [State.sp]
  | counted hm => rw [stepsLeft_complete hb]; simp [State.sp]
  | another cnt hm => simp [stepsLeft, State.sp]

theorem StreamEnds.stepsLeft_lt {s t : State} (he : StreamEnds s t) (h : RunOk s) (hb : t.busy = true) :
    stepsLeft t < stepsLeft s := by
  cases he with
  | hdr _ _ _ he => exact he.stepsLeft_lt h.cursorInBuffer hb
  | lit _ hp he => exact he.stepsLeft_lt hp h.cursorInBuffer hb
  | window _ _ hp _ he => exact he.stepsLeft_lt hp h.cursorInBuffer hb
  | count _ _ hp _ he => exact he.stepsLeft_lt hp h.cursorInBuffer hb
  | next _ _ hp hs he => exact he.stepsLeft_lt hp hs h.stackOk hb

/-! ## Every run ends -/

theorem complete_phase_ne_idle (p : Packet) (s : State) : (complete p s).phase ≠ .idle := by
  rcases complete_cases p s with ⟨-, hc⟩ | ⟨f, rest, -, hc⟩ <;> simp [hc]

/-- A step that leaves the run leaves it ended. -/
theorem StreamEnds.ended {s t : State} (he : StreamEnds s t) (hb : t.busy = false) : Ended t := by
  have hidle : t.phase ≠ .idle := by
    cases he with
    | hdr _ _ _ he => cases he <;> simp
    | lit _ hp he => cases he <;> simp [hp, complete_phase_ne_idle]
    | window _ _ _ _ he => cases he <;> simp
    | count _ _ _ _ he => cases he <;> simp
    | next _ _ _ _ he => cases he <;> simp [complete_phase_ne_idle]
  rcases not_busy_iff.1 hb with hp | hp
  · exact absurd hp hidle
  · exact hp

/-- A run ends within the steps that `stepsLeft` allows it: each step takes one of them. -/
theorem Undisturbed.ends {bound : Nat} {s : State} (h : Undisturbed s) (hb : s.busy = true)
    (hbound : stepsLeft s ≤ bound) : ∃ n t, n ≤ bound ∧ Sys2Proof.core.run n s = .next t ∧ Ended t := by
  induction bound generalizing s with
  | zero => unfold stepsLeft at hbound; split at hbound <;> omega
  | succ bound ih =>
    obtain ⟨u, hu, he, hundisturbed⟩ := h.next hb
    cases hbu : u.busy with
    | false => exact ⟨1, u, by omega, run_succ 0 hu, he.ended hbu⟩
    | true =>
      have hlt := he.stepsLeft_lt (h.run hb) hbu
      obtain ⟨n, t, hn, ht, hend⟩ := ih hundisturbed hbu (by omega)
      exact ⟨n + 1, t, by omega, (run_succ n hu).trans ht, hend⟩

theorem busy_of_started {s : State} (h : Started s) : s.busy = true := busy_iff.2 (.inl h.2.1)

/-- Settles O47: at the start no frame is open and no bit is read, so `stepsLeft` is BUFLEN + 1. -/
theorem everyRunEnds : Obligations.EveryRunEnds := by
  intro s h
  refine (undisturbed_of_started h).ends (busy_of_started h) ?_
  obtain ⟨-, hphase, -, hstk⟩ := h
  unfold stepsLeft State.sp
  simp [hphase, hstk]

end Sys2Proof.Machine
end

section
/-! PROOFS of the family 41_packet_decoder.md, part 2: which instruction a step runs, and each step of the sequencer
from the bits of the buffer (R119 to R125). -/

namespace Sys2Proof.Machine

open Sys2Proof Sys2Proof.Safety

/-! ## The instruction in hand (41_packet_decoder.md R119) -/

theorem sequencerStep_of_fetch {s : State} {i : Instr} (h : fetch s = .run i) : sequencerStep s = exec i s := by
  rw [sequencerStep, h]

theorem fetch_hdr {s : State} {bits rest : List Bool} {i : Instr} (hp : s.phase = .hdr)
    (hl : lookahead s = some bits) (hd : decodeHeader bits = .ok (i, rest)) : fetch s = .run i := by
  simp only [fetch, hp, hl, hd, Fetched.ofDecoded]

theorem fetch_oph {s : State} {bits rest : List Bool} {i : Instr} (hp : s.phase = .oph)
    (hl : lookahead s = some bits) (hd : decodeHeader (fieldBits s.ver ++ fieldBits s.tid ++ bits) = .ok (i, rest)) :
    fetch s = .run i := by
  simp only [fetch, hp, hl, hd, Fetched.ofDecoded]

theorem fetch_lit {s : State} {bits rest : List Bool} {i : Instr} (hp : s.phase = .lit)
    (hl : lookahead s = some bits) (hd : decodeGroup bits = .ok (i, rest)) : fetch s = .run i := by
  simp only [fetch, hp, hl, hd, Fetched.ofDecoded]

theorem fetch_next {s : State} {f : Frame} {fs : List Frame} (hp : s.phase = .next) (hs : s.stk = f :: fs) :
    fetch s = .run f.instr := by
  simp only [fetch, hp, hs]

theorem step_of_control {s : State} {v : Control} {i : Instr} {r : List Input} (hs : s.inputs = .control v :: r)
    (hv : decodeControl v = .ok i) : step s = exec i (setInputs r s) := by
  rw [step_of_input hs, takeInput, hv]

theorem step_of_command {s : State} {w : CommandWord} {r : List Input} (hs : s.inputs = .command w :: r)
    (hb : s.busy = false) : step s = exec (decodeCommand w) (setInputs r s) :=
  (step_of_input hs).trans (takeCommand_of_not_busy (s := setInputs r s) hb)

/-- Settles O5: the pending input decides, and for the sequencer what is fetched by PHASE. -/
theorem stepRunsDecodedInstruction : Obligations.StepRunsDecodedInstruction :=
  ⟨fun _ => step_of_no_input, fun _ _ => step_of_input,
    fun _ _ _ _ hp hl hd => sequencerStep_of_fetch (fetch_hdr hp hl hd),
    fun _ _ _ _ hp hl hd => sequencerStep_of_fetch (fetch_oph hp hl hd),
    fun _ _ _ _ hp hl hd => sequencerStep_of_fetch (fetch_lit hp hl hd),
    fun _ _ _ hp hs => sequencerStep_of_fetch (fetch_next hp hs),
    fun _ _ _ _ => step_of_control, fun _ _ _ => step_of_command⟩

/-- Settles O46: with nothing pending the sequencer has the slot, and it waits. -/
theorem endedRunsStay : Obligations.EndedRunsStay := fun _ hb hi => (step_of_no_input hi).trans (sequencer_waits hb)

/-! ## step_HDR (41_packet_decoder.md R121) -/

theorem headerStep_of_literal {v : Version} {t : TypeId} {s : State} (h6 : 6 ≤ s.cur.rem) (ht : t = literalTypeId) :
    headerStep v t s = .next (setPhase .lit (setAcc 0 (afterHeader v t s))) := by
  obtain ⟨u, hu, he⟩ := headerStep_ends v t s
  rw [hu]
  cases he with
  | noVersion => omega
  | noTypeId => omega
  | literal => rfl
  | operator _ hne => exact absurd ht hne

theorem headerStep_of_operator {v : Version} {t : TypeId} {s : State} (h6 : 6 ≤ s.cur.rem) (ht : t ≠ literalTypeId) :
    headerStep v t s = .next (setPhase .oph (afterHeader v t s)) := by
  obtain ⟨u, hu, he⟩ := headerStep_ends v t s
  rw [hu]
  cases he with
  | noVersion => omega
  | noTypeId => omega
  | literal _ heq => exact absurd heq ht
  | operator => rfl

/-- The next state of a whole header, whatever its type id. -/
theorem headerStep_of_le {v : Version} {t : TypeId} {s : State} (h6 : 6 ≤ s.cur.rem) :
    headerStep v t s = .next { s with
      cur := { s.cur with pos := s.cur.pos + 6 }, rdata := t.setWidth 16, ver := v, tid := t,
      acc := if t = literalTypeId then 0 else s.acc, phase := if t = literalTypeId then .lit else .oph } := by
  by_cases ht : t = literalTypeId
  · rw [headerStep_of_literal h6 ht, if_pos ht, if_pos ht]; rfl
  · rw [headerStep_of_operator h6 ht, if_neg ht, if_neg ht]; rfl

theorem headerStep_of_no_version {v : Version} {t : TypeId} {s : State} (h : s.cur.rem < 3) :
    headerStep v t s = .next (faultEntry .unexpectedEnd s.cur.addr s) := consume_of_lt h

theorem headerStep_of_no_typeId {v : Version} {t : TypeId} {s : State} (h3 : 3 ≤ s.cur.rem) (h6 : s.cur.rem < 6) :
    headerStep v t s = .next (faultEntry .unexpectedEnd (s.cur.addr + 3) (afterVersion v s)) := by
  obtain ⟨u, hu, he⟩ := headerStep_ends v t s
  rw [hu]
  cases he with
  | noVersion => omega
  | noTypeId => rfl
  | literal => omega
  | operator => omega

/-- Settles O6: step_HDR on the two fields at A, by how many of its six bits are left. -/
theorem headerStepFromBuffer : Obligations.HeaderStepFromBuffer := by
  intro s hi hp hc
  rw [step_of_no_input hi, sequencer_hdr hp hc]
  exact ⟨headerStep_of_le, headerStep_of_no_version, headerStep_of_no_typeId⟩

/-- Settles O15: the header step of type id 4. -/
theorem literalHeaderCompletes : Obligations.LiteralHeaderCompletes := fun _ _ hp h6 =>
  (execLit_hdr hp).trans (headerStep_of_le h6)

/-- Settles O16: the header step of a type id that is not 4, of either form. -/
theorem operatorHeadersComplete : Obligations.OperatorHeadersComplete := by
  intro k ver len cnt s hp h6 t
  have hstep : headerStep ver k.typeId s = .next t := by
    rw [headerStep_of_le h6, if_neg (typeId_ne_literal k), if_neg (typeId_ne_literal k)]
  exact ⟨(execL0_hdr hp).trans hstep, (execL1_hdr hp).trans hstep⟩

/-! ## step_OPH (41_packet_decoder.md R112 to R114, R122) -/

/-- With no bit left the lookahead finds none, wherever the cursor lies. -/
theorem lookahead_of_rem_zero {s : State} (h : s.cur.rem = 0) : lookahead s = some [] := by
  unfold lookahead
  rw [h, Nat.zero_min]
  exact if_pos (.inl rfl)

/-- Settles O9: the header in VER and TID is not followed by a length-type id, so the form is cut there. -/
theorem lengthTypeIdMissing : Obligations.LengthTypeIdMissing := by
  intro s k hi hp ht h0
  have hd : decodeHeader (fieldBits s.ver ++ fieldBits s.tid ++ []) = .error .truncated := by
    rw [decodeHeader_of_fields, ht, kindOf_typeId]; rfl
  have hfetch : fetch s = .cut [] := by
    simp only [fetch, hp, lookahead_of_rem_zero h0, hd, Fetched.ofDecoded]
  rw [step_of_no_input hi, sequencerStep, hfetch]
  simp [runCut, hp, cutOperator, raise]

section
variable {s : State} {k : Kind} (hi : s.inputs = []) (hp : s.phase = .oph) (ht : s.tid = k.typeId)
  (hc : CursorInBuffer s) (h1 : 1 ≤ s.cur.rem)
include hi hp ht hc h1

theorem step_oph_window (hbit : readBit s.mem s.cur.addr = false) :
    step s = openWindow k s.ver (fieldAt s 15 (s.cur.addr + 1)) s := by
  rw [step_of_no_input hi, sequencer_oph hp ht hc, if_neg (by omega), hbit]; rfl

theorem step_oph_count (hbit : readBit s.mem s.cur.addr = true) :
    step s = openCount k s.ver (fieldAt s 11 (s.cur.addr + 1)) s := by
  rw [step_of_no_input hi, sequencer_oph hp ht hc, if_neg (by omega), hbit]; rfl

end

theorem openWindow_of_pushed {k : Kind} {ver : Version} {len : TotalLength} {s : State}
    (h : 16 + len.toNat ≤ s.cur.rem) (hroom : RoomOnStack s) :
    openWindow k ver len s =
      .next (pushFrame { ver := ver, kind := k, mode := .l0 len { s.cur with pos := s.cur.pos + 16 }, children := [] }
        (setCur { base := s.cur.addr + 16, len := len.toNat, pos := 0 } (afterLength len s))) := by
  obtain ⟨u, hu, he⟩ := openWindow_ends k ver len s
  have hfull := stackFull_eq_false.2 hroom
  rw [hu]
  cases he with
  | noLengthType => omega
  | noLength => omega
  | tooLong => omega
  | tooDeep _ hf => rw [hfull] at hf; cases hf
  | pushed => rfl

/-- Settles O7: the length-type id at A is 0, so the step is step_OPH of an OP0 packet, by where it ends. -/
theorem windowStepFromBuffer : Obligations.WindowStepFromBuffer := by
  intro s k hi hp ht hc h1 hbit len parent read
  rw [step_oph_window hi hp ht hc h1 hbit]
  refine ⟨fun h16 => ?_, fun h16 hl => ?_, fun hl hroom => ?_, openWindow_of_pushed⟩ <;>
    obtain ⟨u, hu, he⟩ := openWindow_ends k s.ver len s <;>
    rw [hu]
  · cases he with
    | noLength => rfl
    | _ => omega
  · cases he with
    | tooLong => rfl
    | _ => omega
  · cases he with
    | tooDeep => rfl
    | pushed _ hf => exact absurd (stackFull_eq_false.1 hf) hroom
    | _ => omega

/-- Settles O17: the header is in VER and TID, so the form is step_OPH of an OP0 packet. -/
theorem windowOperatorsOpen : Obligations.WindowOperatorsOpen := by
  intro k ver len s hp hv ht hl hroom
  rw [execL0_oph hp hv ht, openWindow_of_pushed hl hroom]
  rfl

theorem openCount_of_pushed {k : Kind} {ver : Version} {cnt : PacketCount} {s : State} (h : 12 ≤ s.cur.rem)
    (hroom : RoomOnStack s) :
    openCount k ver cnt s =
      .next (pushFrame { ver := ver, kind := k, mode := .l1 cnt, children := [] } (afterCount cnt s)) := by
  obtain ⟨u, hu, he⟩ := openCount_ends k ver cnt s
  have hfull := stackFull_eq_false.2 hroom
  rw [hu]
  cases he with
  | noLengthType => omega
  | noCount => omega
  | tooDeep _ hf => rw [hfull] at hf; cases hf
  | pushed => rfl

/-- Settles O8: the length-type id at A is 1, so the step is step_OPH of an OP1 packet, by where it ends. -/
theorem countStepFromBuffer : Obligations.CountStepFromBuffer := by
  intro s k hi hp ht hc h1 hbit cnt read
  rw [step_oph_count hi hp ht hc h1 hbit]
  refine ⟨fun h12 => ?_, fun h12 hroom => ?_, openCount_of_pushed⟩ <;>
    obtain ⟨u, hu, he⟩ := openCount_ends k s.ver cnt s <;>
    rw [hu]
  · cases he with
    | noCount => rfl
    | _ => omega
  · cases he with
    | tooDeep => rfl
    | pushed _ hf => exact absurd (stackFull_eq_false.1 hf) hroom
    | _ => omega

/-- Settles O18: the header is in VER and TID, so the form is step_OPH of an OP1 packet. -/
theorem countOperatorsOpen : Obligations.CountOperatorsOpen := by
  intro k ver cnt s hp hv ht h12 hroom
  rw [execL1_oph hp hv ht, openCount_of_pushed h12 hroom]
  rfl

/-! ## step_LIT (41_packet_decoder.md R102, R103, R123) -/

/-- ACC[63:60] = 0: there is room for another payload. -/
theorem accFull_of_eq_zero {acc : Value} (h : acc.extractLsb' 60 4 = 0) : accFull acc = false :=
  decide_eq_false (not_not.2 h)

theorem groupStep_of_more {g : BitVec 5} {s : State} (h5 : 5 ≤ s.cur.rem) (ha : s.acc.extractLsb' 60 4 = 0)
    (hg : continues g = true) :
    groupStep g s = .next (setAcc (accumulate s.acc (payload g)) (afterGroup g s)) := by
  obtain ⟨u, hu, he⟩ := groupStep_ends g s
  rw [hu]
  cases he with
  | noGroup => omega
  | overflow _ hfull => rw [accFull_of_eq_zero ha] at hfull; cases hfull
  | more => rfl
  | last _ _ hlast => rw [hg] at hlast; cases hlast

theorem groupStep_of_last {g : BitVec 5} {s : State} (h5 : 5 ≤ s.cur.rem) (ha : s.acc.extractLsb' 60 4 = 0)
    (hg : continues g = false) :
    groupStep g s = .next (complete (.literal s.ver (accumulate s.acc (payload g)))
      (setAcc (accumulate s.acc (payload g)) (afterGroup g s))) := by
  obtain ⟨u, hu, he⟩ := groupStep_ends g s
  rw [hu]
  cases he with
  | noGroup => omega
  | overflow _ hfull => rw [accFull_of_eq_zero ha] at hfull; cases hfull
  | more _ _ hmore => rw [hg] at hmore; cases hmore
  | last => rfl

theorem groupStep_of_full {g : BitVec 5} {s : State} (h5 : 5 ≤ s.cur.rem) (ha : s.acc.extractLsb' 60 4 ≠ 0) :
    groupStep g s = .next (faultEntry .literalOverflow (s.cur.addr + 5) (afterGroup g s)) := by
  obtain ⟨u, hu, he⟩ := groupStep_ends g s
  rw [hu]
  cases he with
  | noGroup => omega
  | overflow => rfl
  | more _ hroom => exact absurd hroom (by simpa [accFull] using ha)
  | last _ hroom => exact absurd hroom (by simpa [accFull] using ha)

/-- Settles O10: step_LIT on the group at A, by whether it is there, ACC has room and another follows. -/
theorem groupStepFromBuffer : Obligations.GroupStepFromBuffer := by
  intro s hi hp hc g acc read
  rw [step_of_no_input hi, sequencer_lit hp hc]
  exact ⟨consume_of_lt, groupStep_of_full, groupStep_of_more, groupStep_of_last⟩

theorem execGrpC_lit {d : Nibble} {s : State} (hp : s.phase = .lit) :
    exec (.grpC d) s = groupStep (groupOf true d) s := by
  show execGrpC d s = _
  unfold execGrpC; rw [hp]

theorem execGrpF_lit {d : Nibble} {s : State} (hp : s.phase = .lit) :
    exec (.grpF d) s = groupStep (groupOf false d) s := by
  show execGrpF d s = _
  unfold execGrpF; rw [hp]

/-- Settles O20: the groups are step_LIT with the flag GRP[4] they are named for. -/
theorem groupsComplete : Obligations.GroupsComplete := by
  intro d s hp h5 ha acc
  rw [execGrpC_lit hp, execGrpF_lit hp, groupStep_of_more h5 ha (continues_groupOf true d),
    groupStep_of_last h5 ha (continues_groupOf false d), payload_groupOf, payload_groupOf]
  exact ⟨rfl, rfl⟩

/-! ## step_NEXT and COMPLETE (41_packet_decoder.md R124, R125) -/

theorem Cursor.exhausted_of_le {slack : Nat} {c : Cursor} (h : c.rem ≤ slack) : c.exhausted slack = true :=
  decide_eq_true h

theorem nextWindow_of_closed {f : Frame} {total : TotalLength} {parent : Cursor} {rest : List Frame} {s : State}
    (h : s.cur.rem ≤ s.params.exhSlack) (hp : s.cur.pos = total.toNat) (hs : total.toNat ≤ parent.rem) :
    nextWindow f total parent rest s =
      .next (complete f.packet (setStk rest (setCur { parent with pos := parent.pos + total.toNat } s))) := by
  rw [nextWindow, if_pos (Cursor.exhausted_of_le h), if_neg (not_not.2 hp), Cursor.skip_of_le hs]

theorem nextWindow_of_badParent {f : Frame} {total : TotalLength} {parent : Cursor} {rest : List Frame} {s : State}
    (h : s.cur.rem ≤ s.params.exhSlack) (hp : s.cur.pos = total.toNat) (hs : parent.rem < total.toNat) :
    nextWindow f total parent rest s = .next (faultEntry .unexpectedEnd parent.addr (setCur parent s)) := by
  rw [nextWindow, if_pos (Cursor.exhausted_of_le h), if_neg (not_not.2 hp), Cursor.skip_of_lt hs]; rfl

theorem nextWindow_of_mismatch {f : Frame} {total : TotalLength} {parent : Cursor} {rest : List Frame} {s : State}
    (h : s.cur.rem ≤ s.params.exhSlack) (hp : s.cur.pos ≠ total.toNat) :
    nextWindow f total parent rest s = .next (faultEntry .lengthMismatch s.cur.addr s) := by
  rw [nextWindow, if_pos (Cursor.exhausted_of_le h), if_pos hp]; rfl

theorem nextWindow_of_child {f : Frame} {total : TotalLength} {parent : Cursor} {rest : List Frame} {s : State}
    (h : s.params.exhSlack < s.cur.rem) : nextWindow f total parent rest s = .next (setPhase .hdr s) :=
  if_neg (by simpa [Cursor.exhausted] using h)

theorem step_next_l0 {s : State} {f : Frame} {rest : List Frame} {total : TotalLength} {parent : Cursor}
    (hi : s.inputs = []) (hp : s.phase = .next) (hs : s.stk = f :: rest) (hm : f.mode = .l0 total parent) :
    step s = nextWindow f total parent rest s := by
  rw [step_of_no_input hi, sequencer_next hp hs, hm]

theorem step_next_l1 {s : State} {f : Frame} {rest : List Frame} {cnt : PacketCount}
    (hi : s.inputs = []) (hp : s.phase = .next) (hs : s.stk = f :: rest) (hm : f.mode = .l1 cnt) :
    step s = nextCount f cnt rest s := by
  rw [step_of_no_input hi, sequencer_next hp hs, hm]

/-- Settles O11: step_NEXT of the top frame's MODE, test by test. -/
theorem nextStepDecides : Obligations.NextStepDecides := by
  intro s f rest hi hp hs
  refine ⟨fun total parent hm => ?_, fun cnt hm => ?_⟩
  · rw [step_next_l0 hi hp hs hm]
    exact ⟨nextWindow_of_child, nextWindow_of_mismatch, nextWindow_of_closed, nextWindow_of_badParent⟩
  · rw [step_next_l1 hi hp hs hm]
    exact ⟨fun h => if_pos h, fun h => if_neg h⟩

/-- Settles O12: with an empty stack the run ends, else the top frame takes the packet. -/
theorem completionOfPacket : Obligations.CompletionOfPacket := fun _ _ => ⟨complete_root, fun _ _ => complete_child⟩

/-- Settles O19: in NEXT the form on top of the stack is step_NEXT of its frame. -/
theorem operatorsReturnTheirPacket : Obligations.OperatorsReturnTheirPacket := fun _ _ _ _ _ hp =>
  ⟨fun _ _ hs h hpos hroom => (execL0_next hp hs rfl).trans (nextWindow_of_closed h hpos hroom),
    fun hs => execL1_next hp hs rfl⟩

/-! ## START (41_packet_decoder.md R120) -/

theorem execStart_of_busy {s : State} (hb : s.busy = true) : exec .start s = .next s := if_pos hb

/-- Settles O28: refused in BUSY, and outside a run what START leaves, field by field. -/
theorem startBeginsRun : Obligations.StartBeginsRun := fun s =>
  ⟨execStart_of_busy, fun hb => ⟨startState s, execStart_of_not_busy hb,
    rfl, rfl, rfl, rfl, rfl, rfl, rfl, rfl, rfl, rfl, rfl, rfl, rfl, rfl, rfl, rfl, rfl, rfl⟩⟩

/-! ## Forms out of place (41_packet_decoder.md R119; log 10) -/

theorem execLit_refused {ver : Version} {s : State} (hp : s.phase ≠ .hdr) :
    exec (.lit ver) s = .refused .notEnabled := by
  show execLit ver s = _
  unfold execLit
  split
  · exact absurd ‹_› hp
  all_goals rfl

theorem execGrpC_refused {d : Nibble} {s : State} (hp : s.phase ≠ .lit) :
    exec (.grpC d) s = .refused .notEnabled := by
  show execGrpC d s = _
  unfold execGrpC
  split
  · exact absurd ‹_› hp
  all_goals rfl

theorem execGrpF_refused {d : Nibble} {s : State} (hp : s.phase ≠ .lit) :
    exec (.grpF d) s = .refused .notEnabled := by
  show execGrpF d s = _
  unfold execGrpF
  split
  · exact absurd ‹_› hp
  all_goals rfl

theorem packetL0_refused {k : Kind} {ver : Version} {len : TotalLength} {s : State} (hhdr : s.phase ≠ .hdr)
    (hoph : s.phase = .oph → s.ver ≠ ver ∨ s.tid ≠ k.typeId) (hnext : s.phase ≠ .next) :
    packetL0 k ver len s = .refused .notEnabled := by
  unfold packetL0
  split
  · exact absurd ‹_› hhdr
  · exact if_neg (not_and_or.2 (hoph ‹_›))
  · exact absurd ‹_› hnext
  all_goals rfl

theorem packetL1_refused {k : Kind} {ver : Version} {cnt : PacketCount} {s : State} (hhdr : s.phase ≠ .hdr)
    (hoph : s.phase = .oph → s.ver ≠ ver ∨ s.tid ≠ k.typeId) (hnext : s.phase ≠ .next) :
    packetL1 k ver cnt s = .refused .notEnabled := by
  unfold packetL1
  split
  · exact absurd ‹_› hhdr
  · exact if_neg (not_and_or.2 (hoph ‹_›))
  · exact absurd ‹_› hnext
  all_goals rfl

theorem operators_refused {k : Kind} {ver : Version} {len : TotalLength} {cnt : PacketCount} {s : State}
    (hhdr : s.phase ≠ .hdr) (hoph : s.phase = .oph → s.ver ≠ ver ∨ s.tid ≠ k.typeId) (hnext : s.phase ≠ .next) :
    exec (Instr.ofL0 k ver len) s = .refused .notEnabled ∧ exec (Instr.ofL1 k ver cnt) s = .refused .notEnabled :=
  ⟨(exec_ofL0 ..).trans (packetL0_refused hhdr hoph hnext), (exec_ofL1 ..).trans (packetL1_refused hhdr hoph hnext)⟩

/-- Settles O31: LIT, the groups, and the two formats of the operators, each outside its phases. -/
theorem formsOutOfPlaceRefused : Obligations.FormsOutOfPlaceRefused := fun _ =>
  ⟨fun _ => execLit_refused, fun _ hp => ⟨execGrpC_refused hp, execGrpF_refused hp⟩,
    fun _ _ _ _ hhdr hoph hnext => operators_refused hhdr (fun hp => absurd hp hoph) hnext,
    fun _ _ _ _ hp hheader => operators_refused (by simp [hp]) (fun _ => hheader) (by simp [hp])⟩

/-! ## What a form of the stream leaves alone (41_packet_decoder.md R121 to R125) -/

/-- The model's own fields that no form writes. -/
def SameOwnFields (s t : State) : Prop := t.response = s.response ∧ t.readData = s.readData ∧ t.free = s.free

/-- The result registers. -/
def SameResults (s t : State) : Prop :=
  t.tree = s.tree ∧ t.derr = s.derr ∧ t.everr = s.everr ∧ t.epos = s.epos ∧ t.endpos = s.endpos ∧ t.vsum = s.vsum ∧
    t.value = s.value

theorem sameResults_complete {p : Packet} {s t : State} (h : SameResults s t) (hd : (complete p t).phase ≠ .done) :
    SameResults s (complete p t) := by
  rcases complete_cases p t with ⟨-, hc⟩ | ⟨f, rest, -, hc⟩ <;> rw [hc] at hd ⊢
  · exact absurd rfl hd
  · exact h

theorem StreamEnds.sameOwnFields {s t : State} (he : StreamEnds s t) : SameOwnFields s t := by
  cases he with
  | hdr _ _ _ he => cases he <;> simp [SameOwnFields]
  | lit _ _ he => cases he <;> simp [SameOwnFields]
  | window _ _ _ _ he => cases he <;> simp [SameOwnFields]
  | count _ _ _ _ he => cases he <;> simp [SameOwnFields]
  | next _ _ _ _ he => cases he <;> simp [SameOwnFields]

/-- The results are written by fault entry and by the completion that ends the run. -/
theorem StreamEnds.sameResults {s t : State} (he : StreamEnds s t) (hd : t.phase ≠ .done) (hf : t.phase ≠ .fault) :
    SameResults s t := by
  cases he with
  | hdr _ _ _ he =>
    cases he with
    | noVersion => simp at hf
    | noTypeId => simp at hf
    | literal => simp [SameResults]
    | operator => simp [SameResults]
  | lit _ _ he =>
    cases he with
    | noGroup => simp at hf
    | overflow => simp at hf
    | more => simp [SameResults]
    | last => exact sameResults_complete (by simp [SameResults]) hd
  | window _ _ _ _ he =>
    cases he with
    | pushed => simp [SameResults]
    | _ => simp at hf
  | count _ _ _ _ he =>
    cases he with
    | pushed => simp [SameResults]
    | _ => simp at hf
  | next _ _ _ _ he =>
    cases he with
    | child => simp [SameResults]
    | mismatch => simp at hf
    | badParent => simp at hf
    | closed => exact sameResults_complete (by simp [SameResults]) hd
    | counted => exact sameResults_complete (by simp [SameResults]) hd
    | another => simp [SameResults]

/-- In HDR the stack, the length registers and the cursor's range stay. -/
theorem StreamEnds.frame_hdr {s t : State} (he : StreamEnds s t) (hp : s.phase = .hdr) :
    t.stk = s.stk ∧ t.ltid = s.ltid ∧ t.tlen = s.tlen ∧ t.pcnt = s.pcnt ∧ t.grp = s.grp ∧
      t.cur.base = s.cur.base ∧ t.cur.len = s.cur.len := by
  cases he with
  | hdr _ _ _ he => cases he <;> simp
  | lit _ h => simp [hp] at h
  | window _ _ h => simp [hp] at h
  | count _ _ h => simp [hp] at h
  | next _ _ h => simp [hp] at h

/-- In OPH the header, GRP and ACC stay. -/
theorem StreamEnds.frame_oph {s t : State} (he : StreamEnds s t) (hp : s.phase = .oph) :
    t.ver = s.ver ∧ t.tid = s.tid ∧ t.grp = s.grp ∧ t.acc = s.acc := by
  cases he with
  | hdr _ _ h => simp [hp] at h
  | lit _ h => simp [hp] at h
  | window _ _ _ _ he => cases he <;> simp
  | count _ _ _ _ he => cases he <;> simp
  | next _ _ h => simp [hp] at h

/-- In LIT the header, the length registers and the cursor's range stay. -/
theorem StreamEnds.frame_lit {s t : State} (he : StreamEnds s t) (hp : s.phase = .lit) :
    t.ver = s.ver ∧ t.tid = s.tid ∧ t.ltid = s.ltid ∧ t.tlen = s.tlen ∧ t.pcnt = s.pcnt ∧
      t.cur.base = s.cur.base ∧ t.cur.len = s.cur.len := by
  cases he with
  | hdr _ _ h => simp [hp] at h
  | lit _ _ he => cases he <;> simp
  | window _ _ h => simp [hp] at h
  | count _ _ h => simp [hp] at h
  | next _ _ h => simp [hp] at h

/-- In NEXT every working register stays. -/
theorem StreamEnds.frame_next {s t : State} (he : StreamEnds s t) (hp : s.phase = .next) :
    t.rdata = s.rdata ∧ t.ver = s.ver ∧ t.tid = s.tid ∧ t.ltid = s.ltid ∧ t.tlen = s.tlen ∧ t.pcnt = s.pcnt ∧
      t.grp = s.grp ∧ t.acc = s.acc := by
  cases he with
  | hdr _ _ h => simp [hp] at h
  | lit _ h => simp [hp] at h
  | window _ _ h => simp [hp] at h
  | count _ _ h => simp [hp] at h
  | next _ _ _ _ he => cases he <;> simp

/-- Settles O36: a form of the stream ends as `StreamEnds` lists, and the frame is read off each end. -/
theorem sequencerFrame : Obligations.SequencerFrame := by
  intro i s t h hi
  have he := exec_stream_next h hi
  obtain ⟨hresponse, hread, hfree⟩ := he.sameOwnFields
  exact ⟨hresponse, hread, hfree, he.sameResults, he.frame_hdr, he.frame_oph, he.frame_lit, he.frame_next⟩

/-! ## The depth of the stack (41_packet_decoder.md R129) -/

/-- Settles O43: each open operator has read 18 bits, and A is in the buffer. -/
theorem stackDepthBound : Obligations.StackDepthBound := by
  intro s h hb
  obtain ⟨hcap, hread⟩ := h.depth hb
  have hend := addr_add_rem_le_buflen (h.cursorInBuffer hb)
  exact ⟨by omega, hcap⟩

end Sys2Proof.Machine
end

section
/-! PROOFS of the family 41_packet_decoder.md, part 3: what the recursive definition reads and answers (R118), and that
`refRun` gives it fuel enough. -/

namespace Sys2Proof.Machine

open Sys2Proof Sys2Proof.Safety

/-! ## Reads -/

/-- The field of `n` bits at an address of a store. -/
def storedField (m : List Host.Cell) (n a : Nat) : BitVec n := BitVec.ofNat n (readNat m a n)

theorem storedField_one_eq_zero {m : List Host.Cell} {a : Nat} : storedField m 1 a = 0 ↔ readBit m a = false := by
  unfold storedField readNat readNat
  cases readBit m a <;> simp

/-- A cursor `n` bits further on its range. -/
def Cursor.ahead (c : Cursor) (n : Nat) : Cursor := { c with pos := c.pos + n }

@[simp] theorem Cursor.ahead_ahead (c : Cursor) (n k : Nat) : (c.ahead n).ahead k = c.ahead (n + k) := by
  simp only [Cursor.ahead, Nat.add_assoc]

@[simp] theorem Cursor.addr_ahead (c : Cursor) (n : Nat) : (c.ahead n).addr = c.addr + n := c.addr_forward n

@[simp] theorem Cursor.rem_ahead (c : Cursor) (n : Nat) : (c.ahead n).rem = c.rem - n := by
  simp only [Cursor.ahead, Cursor.rem]; omega

theorem refRead_of_lt {m : List Host.Cell} {n : Nat} {c : Cursor} (h : c.rem < n) : refRead m n c = none := if_pos h

theorem refRead_of_le {m : List Host.Cell} {n : Nat} {c : Cursor} (h : n ≤ c.rem) :
    refRead m n c = some (storedField m n c.addr, c.ahead n) := if_neg (Nat.not_lt.2 h)

/-! ## The group loop (41_packet_decoder.md R102, R118) -/

/-- What one turn of the group loop answers. -/
inductive GroupReads (m : List Host.Cell) (ver : Version) (fuel : Nat) (acc : Value) (c : Cursor) :
    RefResult → Prop where
  | noGroup (h : c.rem < 5) : GroupReads m ver fuel acc c (.raised .unexpectedEnd c.addr)
  | overflow (h : 5 ≤ c.rem) (ha : accFull acc = true) :
    GroupReads m ver fuel acc c (.raised .literalOverflow (c.addr + 5))
  | more (h : 5 ≤ c.rem) (ha : accFull acc = false) (hg : continues (storedField m 5 c.addr) = true) :
    GroupReads m ver fuel acc c
      (refGroups m ver fuel (accumulate acc (payload (storedField m 5 c.addr))) (c.ahead 5))
  | last (h : 5 ≤ c.rem) (ha : accFull acc = false) (hg : continues (storedField m 5 c.addr) = false) :
    GroupReads m ver fuel acc c
      (.ok (.literal ver (accumulate acc (payload (storedField m 5 c.addr)))) (c.ahead 5))

/-- A group where there is one, and room for it in the accumulator. -/
theorem refGroups_of_room {m : List Host.Cell} {ver : Version} {fuel : Nat} {acc : Value} {c : Cursor}
    (h : 5 ≤ c.rem) (ha : accFull acc = false) :
    refGroups m ver (fuel + 1) acc c =
      if continues (storedField m 5 c.addr) then
        refGroups m ver fuel (accumulate acc (payload (storedField m 5 c.addr))) (c.ahead 5)
      else .ok (.literal ver (accumulate acc (payload (storedField m 5 c.addr)))) (c.ahead 5) := by
  rw [refGroups, refRead_of_le h]
  dsimp only
  rw [ha]
  rfl

theorem refGroups_reads (m : List Host.Cell) (ver : Version) (fuel : Nat) (acc : Value) (c : Cursor) :
    GroupReads m ver fuel acc c (refGroups m ver (fuel + 1) acc c) := by
  by_cases h5 : c.rem < 5
  · rw [refGroups, refRead_of_lt h5]; exact .noGroup h5
  cases ha : accFull acc with
  | true =>
    rw [refGroups, refRead_of_le (by omega)]
    dsimp only
    rw [if_pos ha, Cursor.addr_ahead]
    exact .overflow (by omega) ha
  | false =>
    rw [refGroups_of_room (by omega) ha]
    cases hg : continues (storedField m 5 c.addr) with
    | true => exact .more (by omega) ha hg
    | false => exact .last (by omega) ha hg

/-! ## decode_packet behind an operator's header (41_packet_decoder.md R112 to R114, R118) -/

/-- What `decode_packet` does once the header it has read is an operator's. -/
def refOperator (p : Params) (m : List Host.Cell) (fuel : Nat) (ver : Version) (k : Kind) (c : Cursor) (d : Nat) :
    RefResult :=
  match refRead m 1 c with
  | none => .raised .unexpectedEnd c.addr
  | some (ltid, c) =>
    if ltid = 0 then
      match refRead m 15 c with
      | none => .raised .unexpectedEnd c.addr
      | some (total, c) =>
        match c.subView total.toNat with
        | none => .raised .unexpectedEnd c.addr
        | some view =>
          if atMaxDepth p d then .raised .depthExceeded c.addr
          else refCloseL0 ver k total c (refWindow p m fuel view (d + 1))
    else
      match refRead m 11 c with
      | none => .raised .unexpectedEnd c.addr
      | some (count, c) =>
        if atMaxDepth p d then .raised .depthExceeded c.addr
        else refCloseL1 ver k (refCount p m fuel count.toNat c (d + 1))

section
variable {p : Params} {m : List Host.Cell} {fuel d : Nat} {ver : Version} {k : Kind} {c : Cursor}

theorem refOperator_of_window (hbit : readBit m c.addr = false)
    (h : 16 + (storedField m 15 (c.addr + 1)).toNat ≤ c.rem) (hd : atMaxDepth p d = false) :
    refOperator p m fuel ver k c d =
      refCloseL0 ver k (storedField m 15 (c.addr + 1)) (c.ahead 16)
        (refWindow p m fuel ⟨c.addr + 16, (storedField m 15 (c.addr + 1)).toNat, 0⟩ (d + 1)) := by
  rw [refOperator, refRead_of_le (by omega)]
  dsimp only
  rw [if_pos (storedField_one_eq_zero.2 hbit), refRead_of_le (by rw [Cursor.rem_ahead]; omega)]
  dsimp only
  rw [Cursor.addr_ahead, Cursor.ahead_ahead, Cursor.subView_of_le (by rw [Cursor.rem_ahead]; omega), hd,
    Cursor.addr_ahead]
  rfl

theorem refOperator_of_count (hbit : readBit m c.addr = true) (h : 12 ≤ c.rem) (hd : atMaxDepth p d = false) :
    refOperator p m fuel ver k c d =
      refCloseL1 ver k (refCount p m fuel (storedField m 11 (c.addr + 1)).toNat (c.ahead 12) (d + 1)) := by
  have hltid : storedField m 1 c.addr ≠ 0 := by rw [Ne, storedField_one_eq_zero, hbit]; decide
  rw [refOperator, refRead_of_le (by omega)]
  dsimp only
  rw [if_neg hltid, refRead_of_le (by rw [Cursor.rem_ahead]; omega)]
  dsimp only
  rw [Cursor.addr_ahead, Cursor.ahead_ahead, hd]
  rfl

end

/-- What `decode_packet` answers behind an operator's header, or the loop over the children it goes on with. -/
inductive OperatorReads (p : Params) (m : List Host.Cell) (fuel : Nat) (ver : Version) (k : Kind) (c : Cursor)
    (d : Nat) : RefResult → Prop where
  | noLengthType (h : c.rem = 0) : OperatorReads p m fuel ver k c d (.raised .unexpectedEnd c.addr)
  | noLength (h1 : 1 ≤ c.rem) (hbit : readBit m c.addr = false) (h : c.rem < 16) :
    OperatorReads p m fuel ver k c d (.raised .unexpectedEnd (c.addr + 1))
  | tooLong (h16 : 16 ≤ c.rem) (hbit : readBit m c.addr = false)
    (h : c.rem < 16 + (storedField m 15 (c.addr + 1)).toNat) :
    OperatorReads p m fuel ver k c d (.raised .unexpectedEnd (c.addr + 16))
  | windowTooDeep (h : 16 + (storedField m 15 (c.addr + 1)).toNat ≤ c.rem) (hbit : readBit m c.addr = false)
    (hd : atMaxDepth p d = true) : OperatorReads p m fuel ver k c d (.raised .depthExceeded (c.addr + 16))
  | window (h : 16 + (storedField m 15 (c.addr + 1)).toNat ≤ c.rem) (hbit : readBit m c.addr = false)
    (hd : atMaxDepth p d = false) :
    OperatorReads p m fuel ver k c d
      (refCloseL0 ver k (storedField m 15 (c.addr + 1)) (c.ahead 16)
        (refWindow p m fuel ⟨c.addr + 16, (storedField m 15 (c.addr + 1)).toNat, 0⟩ (d + 1)))
  | noCount (h1 : 1 ≤ c.rem) (hbit : readBit m c.addr = true) (h : c.rem < 12) :
    OperatorReads p m fuel ver k c d (.raised .unexpectedEnd (c.addr + 1))
  | countTooDeep (h : 12 ≤ c.rem) (hbit : readBit m c.addr = true) (hd : atMaxDepth p d = true) :
    OperatorReads p m fuel ver k c d (.raised .depthExceeded (c.addr + 12))
  | count (h : 12 ≤ c.rem) (hbit : readBit m c.addr = true) (hd : atMaxDepth p d = false) :
    OperatorReads p m fuel ver k c d
      (refCloseL1 ver k (refCount p m fuel (storedField m 11 (c.addr + 1)).toNat (c.ahead 12) (d + 1)))

theorem refOperator_reads_window {p : Params} {m : List Host.Cell} {fuel : Nat} {ver : Version} {k : Kind} {c : Cursor}
    {d : Nat} (h1 : 1 ≤ c.rem) (hbit : readBit m c.addr = false) :
    OperatorReads p m fuel ver k c d (refOperator p m fuel ver k c d) := by
  by_cases hpush : 16 + (storedField m 15 (c.addr + 1)).toNat ≤ c.rem ∧ atMaxDepth p d = false
  · rw [refOperator_of_window hbit hpush.1 hpush.2]; exact .window hpush.1 hbit hpush.2
  rw [refOperator, refRead_of_le h1]
  dsimp only
  rw [if_pos (storedField_one_eq_zero.2 hbit)]
  by_cases h16 : c.rem < 16
  · rw [refRead_of_lt (by rw [Cursor.rem_ahead]; omega)]
    dsimp only
    rw [Cursor.addr_ahead]
    exact .noLength h1 hbit h16
  rw [refRead_of_le (by rw [Cursor.rem_ahead]; omega)]
  dsimp only
  rw [Cursor.addr_ahead, Cursor.ahead_ahead]
  by_cases hl : c.rem < 16 + (storedField m 15 (c.addr + 1)).toNat
  · rw [Cursor.subView_of_lt (by rw [Cursor.rem_ahead]; omega)]
    dsimp only
    rw [Cursor.addr_ahead]
    exact .tooLong (by omega) hbit hl
  have hd : atMaxDepth p d = true := Bool.eq_true_of_not_eq_false fun hd => hpush ⟨by omega, hd⟩
  rw [Cursor.subView_of_le (by rw [Cursor.rem_ahead]; omega)]
  dsimp only
  rw [if_pos hd, Cursor.addr_ahead]
  exact .windowTooDeep (by omega) hbit hd

theorem refOperator_reads_count {p : Params} {m : List Host.Cell} {fuel : Nat} {ver : Version} {k : Kind} {c : Cursor}
    {d : Nat} (h1 : 1 ≤ c.rem) (hbit : readBit m c.addr = true) :
    OperatorReads p m fuel ver k c d (refOperator p m fuel ver k c d) := by
  by_cases hpush : 12 ≤ c.rem ∧ atMaxDepth p d = false
  · rw [refOperator_of_count hbit hpush.1 hpush.2]; exact .count hpush.1 hbit hpush.2
  have hltid : storedField m 1 c.addr ≠ 0 := by rw [Ne, storedField_one_eq_zero, hbit]; decide
  rw [refOperator, refRead_of_le h1]
  dsimp only
  rw [if_neg hltid]
  by_cases h12 : c.rem < 12
  · rw [refRead_of_lt (by rw [Cursor.rem_ahead]; omega)]
    dsimp only
    rw [Cursor.addr_ahead]
    exact .noCount h1 hbit h12
  have hd : atMaxDepth p d = true := Bool.eq_true_of_not_eq_false fun hd => hpush ⟨by omega, hd⟩
  rw [refRead_of_le (by rw [Cursor.rem_ahead]; omega)]
  dsimp only
  rw [if_pos hd, Cursor.addr_ahead, Cursor.addr_ahead]
  exact .countTooDeep (by omega) hbit hd

theorem refOperator_reads (p : Params) (m : List Host.Cell) (fuel : Nat) (ver : Version) (k : Kind) (c : Cursor)
    (d : Nat) : OperatorReads p m fuel ver k c d (refOperator p m fuel ver k c d) := by
  by_cases h0 : c.rem = 0
  · rw [refOperator, refRead_of_lt (by omega)]; exact .noLengthType h0
  cases hbit : readBit m c.addr with
  | false => exact refOperator_reads_window (by omega) hbit
  | true => exact refOperator_reads_count (by omega) hbit

/-! ## decode_packet, from its header (41_packet_decoder.md R118) -/

section
variable {p : Params} {m : List Host.Cell} {fuel d : Nat} {k : Kind} {c : Cursor}

theorem refPacket_of_literal (h6 : 6 ≤ c.rem) (ht : storedField m 3 (c.addr + 3) = literalTypeId) :
    refPacket p m (fuel + 1) c d = refGroups m (storedField m 3 c.addr) fuel 0 (c.ahead 6) := by
  rw [refPacket, refRead_of_le (by omega)]
  dsimp only
  rw [refRead_of_le (by rw [Cursor.rem_ahead]; omega)]
  dsimp only
  rw [Cursor.addr_ahead, ht, Cursor.ahead_ahead]
  rfl

theorem refPacket_of_operator (h6 : 6 ≤ c.rem) (ht : storedField m 3 (c.addr + 3) = k.typeId) :
    refPacket p m (fuel + 1) c d = refOperator p m fuel (storedField m 3 c.addr) k (c.ahead 6) d := by
  rw [refPacket, refRead_of_le (by omega)]
  dsimp only
  rw [refRead_of_le (by rw [Cursor.rem_ahead]; omega)]
  dsimp only
  rw [Cursor.addr_ahead, ht, Cursor.ahead_ahead, kindOf_typeId]
  rfl

end

/-- What a call of `decode_packet` answers, by what it finds in the header. -/
inductive PacketReads (p : Params) (m : List Host.Cell) (fuel : Nat) (c : Cursor) (d : Nat) : RefResult → Prop where
  | noVersion (h : c.rem < 3) : PacketReads p m fuel c d (.raised .unexpectedEnd c.addr)
  | noTypeId (h3 : 3 ≤ c.rem) (h6 : c.rem < 6) : PacketReads p m fuel c d (.raised .unexpectedEnd (c.addr + 3))
  | literal (h6 : 6 ≤ c.rem) (ht : storedField m 3 (c.addr + 3) = literalTypeId) :
    PacketReads p m fuel c d (refGroups m (storedField m 3 c.addr) fuel 0 (c.ahead 6))
  | operator (k : Kind) (h6 : 6 ≤ c.rem) (ht : storedField m 3 (c.addr + 3) = k.typeId) :
    PacketReads p m fuel c d (refOperator p m fuel (storedField m 3 c.addr) k (c.ahead 6) d)

theorem refPacket_reads (p : Params) (m : List Host.Cell) (fuel : Nat) (c : Cursor) (d : Nat) :
    PacketReads p m fuel c d (refPacket p m (fuel + 1) c d) := by
  by_cases h3 : c.rem < 3
  · rw [refPacket, refRead_of_lt h3]; exact .noVersion h3
  by_cases h6 : c.rem < 6
  · rw [refPacket, refRead_of_le (by omega)]
    dsimp only
    rw [refRead_of_lt (by rw [Cursor.rem_ahead]; omega), Cursor.addr_ahead]
    exact .noTypeId (by omega) h6
  by_cases ht : storedField m 3 (c.addr + 3) = literalTypeId
  · rw [refPacket_of_literal (by omega) ht]; exact .literal (by omega) ht
  · obtain ⟨k, hk⟩ := typeId_of_ne_literal ht
    rw [refPacket_of_operator (by omega) hk]; exact .operator k (by omega) hk

/-! ## The loops over children (41_packet_decoder.md R113, R114, R118) -/

/-- A first child, and the children that are decoded from where it ends. -/
def RefResult.followedBy (rest : Cursor → RefChildren) : RefResult → RefChildren
  | .outOfFuel => .outOfFuel
  | .raised k a => .raised k a
  | .ok first c =>
    match rest c with
    | .outOfFuel => .outOfFuel
    | .raised k a => .raised k a
    | .ok ps c => .ok (first :: ps) c

theorem followedBy_eq_ok {rest : Cursor → RefChildren} {r : RefResult} {ps : List Packet} {c : Cursor}
    (h : r.followedBy rest = .ok ps c) :
    ∃ first c₁ others, r = .ok first c₁ ∧ rest c₁ = .ok others c ∧ ps = first :: others := by
  cases r with
  | ok first c₁ =>
    simp only [RefResult.followedBy] at h
    split at h
    · cases h
    · cases h
    · rename_i others c₂ hrest
      obtain ⟨rfl, rfl⟩ := RefChildren.ok.inj h
      exact ⟨first, c₁, others, rfl, hrest, rfl⟩
  | raised => cases h
  | outOfFuel => cases h

section
variable {p : Params} {m : List Host.Cell} {fuel d : Nat} {c : Cursor}

theorem refWindow_of_exhausted (h : c.exhausted p.exhSlack = true) : refWindow p m (fuel + 1) c d = .ok [] c := by
  rw [refWindow, if_pos h]

theorem refWindow_of_child (h : ¬c.exhausted p.exhSlack = true) :
    refWindow p m (fuel + 1) c d = (refPacket p m fuel c d).followedBy fun c => refWindow p m fuel c d := by
  rw [refWindow, if_neg h]; rfl

theorem refCount_zero : refCount p m (fuel + 1) 0 c d = .ok [] c := rfl

theorem refCount_succ (count : Nat) :
    refCount p m (fuel + 1) (count + 1) c d =
      (refPacket p m fuel c d).followedBy fun c => refCount p m fuel count c d := rfl

end

/-! ## Progress and fuel (41_packet_decoder.md R129) -/

/-- The second cursor stands behind the first on the same range. -/
structure Cursor.Past (c c' : Cursor) : Prop where
  base : c'.base = c.base
  len : c'.len = c.len
  pos : c.pos < c'.pos
  within : c'.pos ≤ c'.len

/-- A packet takes bits from the cursor; fuel runs out only where it was no more than the bits left. -/
def RefResult.Bounded (fuel : Nat) (c : Cursor) : RefResult → Prop
  | .ok _ c' => c.Past c'
  | .raised _ _ => True
  | .outOfFuel => fuel ≤ c.rem

/-- Children take bits, if there are any; the loop over them takes one unit of fuel besides. -/
def RefChildren.Bounded (fuel : Nat) (c : Cursor) : RefChildren → Prop
  | .ok _ c' => c' = c ∨ c.Past c'
  | .raised _ _ => True
  | .outOfFuel => fuel ≤ c.rem + 1

theorem Cursor.Past.rem_lt {c c' : Cursor} (h : c.Past c') : c'.rem < c.rem := by
  obtain ⟨-, hlen, hpos, hwithin⟩ := h
  simp only [Cursor.rem]; omega

theorem Cursor.Past.trans {c c' c'' : Cursor} (h : c.Past c') (h' : c'.Past c'') : c.Past c'' :=
  ⟨h'.base.trans h.base, h'.len.trans h.len, h.pos.trans h'.pos, h'.within⟩

theorem Cursor.past_ahead {c : Cursor} {n : Nat} (h0 : 0 < n) (h : n ≤ c.rem) : c.Past (c.ahead n) := by
  unfold Cursor.rem at h
  refine ⟨rfl, rfl, ?_, ?_⟩ <;> simp only [Cursor.ahead] <;> omega

/-- What is said of a cursor some bits further on may be said of the cursor itself, with a unit of fuel more. -/
theorem RefResult.Bounded.of_ahead {r : RefResult} {fuel n : Nat} {c : Cursor} (h : r.Bounded fuel (c.ahead n))
    (h0 : 0 < n) (hn : n ≤ c.rem) : r.Bounded (fuel + 1) c := by
  cases r with
  | ok p c' => exact (Cursor.past_ahead h0 hn).trans h
  | raised => trivial
  | outOfFuel =>
    simp only [RefResult.Bounded, Cursor.rem_ahead] at h ⊢; omega

theorem refGroups_bounded (m : List Host.Cell) (ver : Version) (fuel : Nat) (acc : Value) (c : Cursor) :
    (refGroups m ver fuel acc c).Bounded fuel c := by
  induction fuel generalizing acc c with
  | zero => exact Nat.zero_le _
  | succ fuel ih =>
    have he := refGroups_reads m ver fuel acc c
    generalize refGroups m ver (fuel + 1) acc c = r at he ⊢
    cases he with
    | noGroup => trivial
    | overflow => trivial
    | more h5 => exact (ih _ _).of_ahead (by decide) h5
    | last h5 => exact Cursor.past_ahead (by decide) h5

/-- All that follows the children of an OP0 packet where it answers a packet. -/
theorem refCloseL0_eq_ok {ver : Version} {k : Kind} {total : TotalLength} {c c' : Cursor} {r : RefChildren} {p : Packet}
    (h : refCloseL0 ver k total c r = .ok p c') :
    ∃ ps view, r = .ok ps view ∧ view.pos = total.toNat ∧ total.toNat ≤ c.rem ∧
      p = .operator ver k (Packets.ofList ps) ∧ c' = c.ahead total.toNat := by
  cases r with
  | ok ps view =>
    simp only [refCloseL0] at h
    split at h
    · cases h
    · rename_i hpos
      split at h
      · cases h
      · rename_i hskip
        obtain ⟨hroom, rfl⟩ := Cursor.skip_eq_some hskip
        obtain ⟨rfl, rfl⟩ := RefResult.ok.inj h
        exact ⟨ps, view, rfl, not_not.1 hpos, hroom, rfl, rfl⟩
  | raised => cases h
  | outOfFuel => cases h

theorem refCloseL0_ok {ver : Version} {k : Kind} {total : TotalLength} {c view : Cursor} {ps : List Packet}
    (hpos : view.pos = total.toNat) (hroom : total.toNat ≤ c.rem) :
    refCloseL0 ver k total c (.ok ps view) = .ok (.operator ver k (Packets.ofList ps)) (c.ahead total.toNat) := by
  rw [refCloseL0, if_neg (not_not.2 hpos), Cursor.skip_of_le hroom]; rfl

theorem eq_outOfFuel_of_refCloseL0 {ver : Version} {k : Kind} {total : TotalLength} {c : Cursor} {r : RefChildren}
    (h : refCloseL0 ver k total c r = .outOfFuel) : r = .outOfFuel := by
  cases r with
  | ok ps view =>
    simp only [refCloseL0] at h
    split at h
    · cases h
    · split at h <;> cases h
  | raised => cases h
  | outOfFuel => rfl

theorem refCloseL1_eq_ok {ver : Version} {k : Kind} {c' : Cursor} {r : RefChildren} {p : Packet}
    (h : refCloseL1 ver k r = .ok p c') :
    ∃ ps, r = .ok ps c' ∧ p = .operator ver k (Packets.ofList ps) := by
  cases r with
  | ok ps c => obtain ⟨rfl, rfl⟩ := RefResult.ok.inj h; exact ⟨ps, rfl, rfl⟩
  | raised => cases h
  | outOfFuel => cases h

/-- The packet of an OP0 operator ends where its window ends, behind the length. -/
theorem refCloseL0_bounded {ver : Version} {k : Kind} {total : TotalLength} {c view : Cursor} {r : RefChildren}
    {fuel : Nat} (h : r.Bounded fuel view) (hfit : 16 + total.toNat ≤ c.rem) (hview : view.rem = total.toNat) :
    (refCloseL0 ver k total (c.ahead 16) r).Bounded fuel c := by
  cases hr : refCloseL0 ver k total (c.ahead 16) r with
  | ok p c' =>
    obtain ⟨-, -, -, -, -, -, rfl⟩ := refCloseL0_eq_ok hr
    rw [Cursor.ahead_ahead]
    exact Cursor.past_ahead (by omega) hfit
  | raised => trivial
  | outOfFuel =>
    rw [eq_outOfFuel_of_refCloseL0 hr] at h
    simp only [RefResult.Bounded, RefChildren.Bounded] at h ⊢; omega

/-- The packet of an OP1 operator ends where its last child ends, or behind the count. -/
theorem refCloseL1_bounded {ver : Version} {k : Kind} {c : Cursor} {r : RefChildren} {fuel : Nat}
    (h : r.Bounded fuel (c.ahead 12)) (h12 : 12 ≤ c.rem) : (refCloseL1 ver k r).Bounded fuel c := by
  have hpast : c.Past (c.ahead 12) := Cursor.past_ahead (by decide) h12
  cases r with
  | ok ps c' =>
    rcases h with rfl | h
    · exact hpast
    · exact hpast.trans h
  | raised => trivial
  | outOfFuel =>
    simp only [RefChildren.Bounded, Cursor.rem_ahead, refCloseL1, RefResult.Bounded] at h ⊢; omega

/-- The loop takes up where the first child ends. -/
theorem RefResult.Bounded.followedBy {r : RefResult} {rest : Cursor → RefChildren} {fuel : Nat} {c : Cursor}
    (h : r.Bounded fuel c) (hrest : ∀ c', (rest c').Bounded fuel c') : (r.followedBy rest).Bounded (fuel + 1) c := by
  cases r with
  | ok first c' =>
    have hpast : c.Past c' := h
    have hrest := hrest c'
    have hlt := hpast.rem_lt
    simp only [RefResult.followedBy]
    cases hr : rest c' with
    | ok ps c'' =>
      rw [hr] at hrest
      rcases hrest with rfl | hrest
      · exact .inr hpast
      · exact .inr (hpast.trans hrest)
    | raised => trivial
    | outOfFuel =>
      rw [hr] at hrest
      simp only [RefChildren.Bounded] at hrest ⊢; omega
  | raised => trivial
  | outOfFuel => exact Nat.succ_le_succ h

section
variable {p : Params} {m : List Host.Cell} {fuel : Nat}
  (hwindow : ∀ c d, (refWindow p m fuel c d).Bounded fuel c)
  (hcount : ∀ count c d, (refCount p m fuel count c d).Bounded fuel c)
include hwindow hcount

theorem refOperator_bounded (ver : Version) (k : Kind) (c : Cursor) (d : Nat) :
    (refOperator p m fuel ver k c d).Bounded fuel c := by
  have he := refOperator_reads p m fuel ver k c d
  generalize refOperator p m fuel ver k c d = r at he ⊢
  cases he with
  | window h => exact refCloseL0_bounded (hwindow _ _) h rfl
  | count h => exact refCloseL1_bounded (hcount _ _ _) h
  | _ => trivial

theorem refPacket_succ_bounded (c : Cursor) (d : Nat) : (refPacket p m (fuel + 1) c d).Bounded (fuel + 1) c := by
  have he := refPacket_reads p m fuel c d
  generalize refPacket p m (fuel + 1) c d = r at he ⊢
  cases he with
  | noVersion => trivial
  | noTypeId => trivial
  | literal h6 => exact (refGroups_bounded ..).of_ahead (by decide) h6
  | operator k h6 => exact (refOperator_bounded hwindow hcount ..).of_ahead (by decide) h6

end

/-- The three parts of the recursion, by induction on the fuel they share. -/
theorem ref_bounded (p : Params) (m : List Host.Cell) (fuel : Nat) :
    (∀ c d, (refPacket p m fuel c d).Bounded fuel c) ∧ (∀ c d, (refWindow p m fuel c d).Bounded fuel c) ∧
      ∀ count c d, (refCount p m fuel count c d).Bounded fuel c := by
  induction fuel with
  | zero => exact ⟨fun _ _ => Nat.zero_le _, fun _ _ => Nat.zero_le _, fun _ _ _ => Nat.zero_le _⟩
  | succ fuel ih =>
    obtain ⟨hpacket, hwindow, hcount⟩ := ih
    refine ⟨refPacket_succ_bounded hwindow hcount, fun c d => ?_, fun count c d => ?_⟩
    · by_cases hexh : c.exhausted p.exhSlack = true
      · rw [refWindow_of_exhausted hexh]; exact .inl rfl
      · rw [refWindow_of_child hexh]; exact (hpacket c d).followedBy fun c' => hwindow c' d
    · cases count with
      | zero => exact .inl rfl
      | succ count => rw [refCount_succ]; exact (hpacket c d).followedBy fun c' => hcount count c' d

/-- `refRun` never runs out of fuel: it has more than there are bits. -/
theorem refRun_ne_outOfFuel (p : Params) (m : List Host.Cell) (buflen : Nat) : refRun p m buflen ≠ .outOfFuel := by
  intro h
  have hbounded := (ref_bounded p m (buflen + 2)).1 (rootCursor buflen) 0
  rw [← refRun, h] at hbounded
  have hrem : (rootCursor buflen).rem = buflen := rfl
  simp only [RefResult.Bounded, hrem] at hbounded
  omega

end Sys2Proof.Machine
end

section
/-! PROOFS of the family 41_packet_decoder.md, part 4: the step machine and the recursive definition agree (R127). A
call of the recursion is a stretch of the run, from the HDR step of a packet to its completion; a loop over children is a
stretch from one NEXT step of a frame to its last. -/

namespace Sys2Proof.Machine

open Sys2Proof Sys2Proof.Safety

/-! ## Stretches of a run -/

/-- Some steps lead to a state of which `P` is true. -/
def Reaches (s : State) (P : State → Prop) : Prop :=
  ∃ n t, Sys2Proof.core.run n s = .next t ∧ Undisturbed t ∧ P t

theorem Reaches.here {s : State} {P : State → Prop} (h : Undisturbed s) (hp : P s) : Reaches s P :=
  ⟨0, s, rfl, h, hp⟩

theorem Reaches.after {s t : State} {P : State → Prop} (hs : step s = .next t) (h : Reaches t P) : Reaches s P := by
  obtain ⟨n, u, hn, hu, hp⟩ := h
  exact ⟨n + 1, u, (run_succ n hs).trans hn, hu, hp⟩

theorem Reaches.bind {s : State} {P Q : State → Prop} (h : Reaches s P)
    (hq : ∀ t, Undisturbed t → P t → Reaches t Q) : Reaches s Q := by
  obtain ⟨n, t, hn, ht, hp⟩ := h
  obtain ⟨n', u, hn', hu, hu'⟩ := hq t ht hp
  exact ⟨n + n', u, (run_add n' hn).trans hn', hu, hu'⟩

theorem Reaches.imp {s : State} {P Q : State → Prop} (h : Reaches s P) (hq : ∀ t, P t → Q t) : Reaches s Q := by
  obtain ⟨n, t, hn, ht, hp⟩ := h
  exact ⟨n, t, hn, ht, hq t hp⟩

theorem Undisturbed.of_step {s t : State} (h : Undisturbed s) (hb : s.busy = true) (hs : step s = .next t) :
    Undisturbed t := by
  obtain ⟨u, hu, -, hundisturbed⟩ := h.next hb
  obtain rfl := Host.Outcome.next.inj (hs.symm.trans hu)
  exact hundisturbed

/-! ## What the machine shows of an answer -/

/-- Fault entry has been made. -/
def Raised (k : DecodeFault) (a : Nat) (t : State) : Prop := t.phase = .fault ∧ t.derr = some k ∧ t.epos = a

/-- The state shows what a call of `decode_packet` answered that began in `s`: the packet has completed, with CUR where
the call left its cursor. -/
def Answers (s : State) : RefResult → State → Prop
  | .ok p c, t => visible t = visible (complete p (setCur c s))
  | .raised k a, t => Raised k a t
  | .outOfFuel, _ => True

/-- The top frame with more children, and nothing left to decode in MODE `mode`. -/
def Frame.closing (f : Frame) (mode : FrameMode) (ps : List Packet) : Frame :=
  { f with mode := mode, children := f.children ++ ps }

/-- The state shows what a loop over children answered that began in `s` with `f` on top of the stack. -/
def ChildrenAnswer (s : State) (f : Frame) (rest : List Frame) (mode : FrameMode) : RefChildren → State → Prop
  | .ok ps c, t => visible t = visible (setCur c (setStk (f.closing mode ps :: rest) s))
  | .raised k a, t => Raised k a t
  | .outOfFuel, _ => True

/-- What a call of `decode_packet` leaves alone until its packet completes: all that is visible but CUR and PHASE. -/
def untouched (s : State) : State := setPhase .idle (setCur { base := 0, len := 0, pos := 0 } (visible s))

@[simp] theorem untouched_setPhase (ph : Phase) (s : State) : untouched (setPhase ph s) = untouched s := rfl
@[simp] theorem untouched_setCur (c : Cursor) (s : State) : untouched (setCur c s) = untouched s := rfl
@[simp] theorem untouched_advance (n : Nat) (v : BitVec 16) (s : State) : untouched (advance n v s) = untouched s := rfl
@[simp] theorem untouched_setVer (v : Version) (s : State) : untouched (setVer v s) = untouched s := rfl
@[simp] theorem untouched_setTid (v : TypeId) (s : State) : untouched (setTid v s) = untouched s := rfl
@[simp] theorem untouched_setLtid (v : BitVec 1) (s : State) : untouched (setLtid v s) = untouched s := rfl
@[simp] theorem untouched_setTlen (v : TotalLength) (s : State) : untouched (setTlen v s) = untouched s := rfl
@[simp] theorem untouched_setPcnt (v : PacketCount) (s : State) : untouched (setPcnt v s) = untouched s := rfl
@[simp] theorem untouched_setGrp (v : BitVec 5) (s : State) : untouched (setGrp v s) = untouched s := rfl
@[simp] theorem untouched_setAcc (v : Value) (s : State) : untouched (setAcc v s) = untouched s := rfl
@[simp] theorem untouched_setStk (v : List Frame) (s : State) : untouched (setStk v s) = setStk v (untouched s) := rfl
@[simp] theorem untouched_pushFrame (f : Frame) (s : State) :
    untouched (pushFrame f s) = setStk (f :: s.stk) (untouched s) := rfl

@[simp] theorem setStk_setStk (v w : List Frame) (s : State) : setStk v (setStk w s) = setStk v s := rfl

@[simp] theorem setStk_untouched (s : State) : setStk s.stk (untouched s) = untouched s := rfl

theorem untouched_eq_of_visible {s t : State} (h : visible s = visible t) : untouched s = untouched t := by
  rw [untouched, h]; rfl

theorem complete_setPhase (p : Packet) (ph : Phase) (s : State) : complete p (setPhase ph s) = complete p s := by
  rcases complete_cases p s with ⟨hs, hc⟩ | ⟨f, rest, hs, hc⟩
  · rw [hc, complete_root (s := setPhase ph s) hs]; rfl
  · rw [hc, complete_child (s := setPhase ph s) hs]; rfl

/-- A completion looks at CUR and what is untouched, not at PHASE or a working register. -/
theorem visible_complete_congr {p : Packet} {s t : State} (h : untouched s = untouched t) (hc : s.cur = t.cur) :
    visible (complete p s) = visible (complete p t) := by
  have hsplit : ∀ u, visible u = setPhase u.phase (setCur u.cur (untouched u)) := fun _ => rfl
  rw [visible_complete, visible_complete, hsplit s, hsplit t, h, hc, complete_setPhase, complete_setPhase]

/-- A stretch that leaves the same things untouched shows the same answers. -/
theorem Answers.of_untouched {s t u : State} {r : RefResult} (hu : Answers t r u) (h : untouched t = untouched s) :
    Answers s r u := by
  cases r with
  | ok p c => exact hu.trans (visible_complete_congr (by simpa using h) rfl)
  | raised => exact hu
  | outOfFuel => trivial

/-- A step, and what is true behind it. -/
theorem reaches_of_step {s t : State} {P : State → Prop} (h : Undisturbed s) (hb : s.busy = true)
    (hs : step s = .next t) (hp : P t) : Reaches s P := .after hs (.here (h.of_step hb hs) hp)

/-! ## The group loop -/

theorem Undisturbed.step_lit {s : State} (h : Undisturbed s) (hp : s.phase = .lit) (hb : s.busy = true) :
    step s = groupStep (storedField s.mem 5 s.cur.addr) s :=
  (step_of_no_input h.inputs).trans (sequencer_lit hp (h.run hb).cursorInBuffer)

/-- In LIT the machine runs the group loop to its end. -/
theorem groups_reach {fuel : Nat} {s : State} (h : Undisturbed s) (hp : s.phase = .lit) :
    Reaches s (Answers s (refGroups s.mem s.ver fuel s.acc s.cur)) := by
  induction fuel generalizing s with
  | zero => exact .here h trivial
  | succ fuel ih =>
    have hb : s.busy = true := busy_iff.2 (.inr (.inr (.inl hp)))
    have hstep := h.step_lit hp hb
    have he := refGroups_reads s.mem s.ver fuel s.acc s.cur
    generalize refGroups s.mem s.ver (fuel + 1) s.acc s.cur = r at he ⊢
    cases he with
    | noGroup h5 => exact reaches_of_step h hb (hstep.trans (consume_of_lt h5)) ⟨rfl, rfl, rfl⟩
    | overflow h5 ha =>
      exact reaches_of_step h hb (hstep.trans (groupStep_of_full h5 (of_decide_eq_true ha))) ⟨rfl, rfl, rfl⟩
    | more h5 ha hg =>
      have hstep := hstep.trans (groupStep_of_more h5 (not_not.1 (of_decide_eq_false ha)) hg)
      exact .after hstep ((ih (h.of_step hb hstep) hp).imp fun _ hanswer => hanswer.of_untouched (by simp))
    | last h5 ha hg =>
      exact reaches_of_step h hb (hstep.trans (groupStep_of_last h5 (not_not.1 (of_decide_eq_false ha)) hg))
        (visible_complete_congr (by simp) rfl)

/-! ## The three parts of the recursion, at one fuel -/

/-- In HDR the machine runs a call of `decode_packet` to its answer. -/
def PacketReaches (fuel : Nat) : Prop :=
  ∀ s : State, Undisturbed s → s.phase = .hdr → Reaches s (Answers s (refPacket s.params s.mem fuel s.cur s.sp))

/-- In NEXT, with a MODE 0 frame on top, the machine runs the loop over the window to its answer. -/
def WindowReaches (fuel : Nat) : Prop :=
  ∀ (s : State) (f : Frame) (rest : List Frame) (total : TotalLength) (parent : Cursor), Undisturbed s →
    s.phase = .next → s.stk = f :: rest → f.mode = .l0 total parent →
    Reaches s (ChildrenAnswer s f rest f.mode (refWindow s.params s.mem fuel s.cur s.sp))

/-- In NEXT, with a MODE 1 frame on top, the machine runs the loop that counts its children to its answer. -/
def CountReaches (fuel : Nat) : Prop :=
  ∀ (s : State) (f : Frame) (rest : List Frame) (cnt : PacketCount), Undisturbed s →
    s.phase = .next → s.stk = f :: rest → f.mode = .l1 cnt →
    Reaches s (ChildrenAnswer s f rest (.l1 0) (refCount s.params s.mem fuel cnt.toNat s.cur s.sp))

/-! ## An operator from its length-type id on -/

theorem roomOnStack_iff {s : State} : RoomOnStack s ↔ atMaxDepth s.params s.sp = false := by
  unfold RoomOnStack atMaxDepth
  cases s.params.maxDepth <;> simp

theorem not_roomOnStack_of_atMaxDepth {s : State} (h : atMaxDepth s.params s.sp = true) : ¬ RoomOnStack s := by
  rw [roomOnStack_iff, h]; decide

/-- Behind the loop over a window the frame is closed: the parent skips the window and the packet completes, or the
window was not consumed exactly (41_packet_decoder.md R113, R124). -/
theorem close_window {s t : State} {f : Frame} {rest : List Frame} {total : TotalLength} {parent : Cursor}
    {r : RefChildren} (h : Undisturbed t) (hp : s.phase = .next) (hm : f.mode = .l0 total parent)
    (hchildren : f.children = []) (hexh : ∀ ps c, r = .ok ps c → c.rem ≤ s.params.exhSlack)
    (hanswer : ChildrenAnswer s f rest f.mode r t) :
    Reaches t (Answers (setStk rest s) (refCloseL0 f.ver f.kind total parent r)) := by
  cases r with
  | raised => exact .here h hanswer
  | outOfFuel => exact .here h trivial
  | ok ps c =>
    have hphase : t.phase = .next := (phase_eq_of_visible hanswer).trans hp
    have hb : t.busy = true := busy_iff.2 (.inr (.inr (.inr hphase)))
    have hstk : t.stk = f.closing f.mode ps :: rest := stk_eq_of_visible hanswer
    have hcur : t.cur = c := cur_eq_of_visible hanswer
    have hslack : t.cur.rem ≤ t.params.exhSlack := by
      rw [hcur, params_eq_of_visible hanswer]; exact hexh ps c rfl
    have hstep := step_next_l0 h.inputs hphase hstk hm
    have hpacket : (f.closing f.mode ps).packet = .operator f.ver f.kind (Packets.ofList ps) := by
      simp [Frame.packet, Frame.closing, hchildren]
    simp only [refCloseL0]
    rw [← hcur]
    by_cases hpos : t.cur.pos = total.toNat
    · rw [if_neg (not_not.2 hpos)]
      by_cases hroom : total.toNat ≤ parent.rem
      · rw [Cursor.skip_of_le hroom]
        refine reaches_of_step h hb (hstep.trans (nextWindow_of_closed hslack hpos hroom)) ?_
        rw [hpacket]
        refine visible_complete_congr ?_ rfl
        simp [untouched_eq_of_visible hanswer]
      · rw [Cursor.skip_of_lt (by omega)]
        exact reaches_of_step h hb (hstep.trans (nextWindow_of_badParent hslack hpos (by omega))) ⟨rfl, rfl, rfl⟩
    · rw [if_pos hpos]
      exact reaches_of_step h hb (hstep.trans (nextWindow_of_mismatch hslack hpos)) ⟨rfl, rfl, rfl⟩

/-- Behind the loop that counts the children the frame is closed, and the packet completes (41_packet_decoder.md R114,
R124). -/
theorem close_count {s t : State} {f : Frame} {rest : List Frame} {r : RefChildren} (h : Undisturbed t)
    (hp : s.phase = .next) (hchildren : f.children = []) (hanswer : ChildrenAnswer s f rest (.l1 0) r t) :
    Reaches t (Answers (setStk rest s) (refCloseL1 f.ver f.kind r)) := by
  cases r with
  | raised => exact .here h hanswer
  | outOfFuel => exact .here h trivial
  | ok ps c =>
    have hphase : t.phase = .next := (phase_eq_of_visible hanswer).trans hp
    have hb : t.busy = true := busy_iff.2 (.inr (.inr (.inr hphase)))
    have hstk : t.stk = f.closing (.l1 0) ps :: rest := stk_eq_of_visible hanswer
    have hcur : t.cur = c := cur_eq_of_visible hanswer
    have hpacket : (f.closing (.l1 0) ps).packet = .operator f.ver f.kind (Packets.ofList ps) := by
      simp [Frame.packet, Frame.closing, hchildren]
    have hstep := step_next_l1 h.inputs hphase hstk rfl
    refine reaches_of_step h hb (hstep.trans (if_pos rfl)) ?_
    rw [hpacket]
    exact visible_complete_congr (by simp [untouched_eq_of_visible hanswer]) hcur

/-- The loop over a window ends where at most EXH_SLACK bits are left of it. -/
theorem refWindow_ok_exhausted {p : Params} {m : List Host.Cell} {fuel d : Nat} {c : Cursor} {ps : List Packet}
    {c' : Cursor} (h : refWindow p m fuel c d = .ok ps c') : c'.rem ≤ p.exhSlack := by
  induction fuel generalizing c ps with
  | zero => cases h
  | succ fuel ih =>
    by_cases hexh : c.exhausted p.exhSlack = true
    · rw [refWindow_of_exhausted hexh] at h
      obtain ⟨-, rfl⟩ := RefChildren.ok.inj h
      exact of_decide_eq_true hexh
    · rw [refWindow_of_child hexh] at h
      obtain ⟨first, c₁, ps, -, hrest, rfl⟩ := followedBy_eq_ok h
      exact ih hrest

theorem operator_reaches {fuel : Nat} (hwindow : WindowReaches fuel) (hcount : CountReaches fuel) {s : State} {k : Kind}
    (h : Undisturbed s) (hp : s.phase = .oph) (ht : s.tid = k.typeId) :
    Reaches s (Answers s (refOperator s.params s.mem fuel s.ver k s.cur s.sp)) := by
  have hb : s.busy = true := busy_iff.2 (.inr (.inl hp))
  have hc := (h.run hb).cursorInBuffer
  have he := refOperator_reads s.params s.mem fuel s.ver k s.cur s.sp
  generalize refOperator s.params s.mem fuel s.ver k s.cur s.sp = r at he ⊢
  cases he with
  | noLengthType h0 =>
    exact reaches_of_step h hb (lengthTypeIdMissing s k h.inputs hp ht h0) ⟨rfl, rfl, rfl⟩
  | noLength h1 hbit h16 =>
    obtain ⟨hstep, -⟩ := windowStepFromBuffer s k h.inputs hp ht hc h1 hbit
    exact reaches_of_step h hb (hstep h16) ⟨rfl, rfl, rfl⟩
  | tooLong h16 hbit hl =>
    obtain ⟨-, hstep, -⟩ := windowStepFromBuffer s k h.inputs hp ht hc (by omega) hbit
    exact reaches_of_step h hb (hstep h16 hl) ⟨rfl, rfl, rfl⟩
  | windowTooDeep hl hbit hd =>
    obtain ⟨-, -, hstep, -⟩ := windowStepFromBuffer s k h.inputs hp ht hc (by omega) hbit
    exact reaches_of_step h hb (hstep hl (not_roomOnStack_of_atMaxDepth hd)) ⟨rfl, rfl, rfl⟩
  | window hl hbit hd =>
    have hstep := (step_oph_window h.inputs hp ht hc (by omega) hbit).trans
      (openWindow_of_pushed hl (roomOnStack_iff.2 hd))
    refine .after hstep ((hwindow _ _ _ _ _ (h.of_step hb hstep) rfl rfl rfl).bind fun t ht hanswer => ?_)
    exact (close_window ht rfl rfl rfl (fun _ _ => refWindow_ok_exhausted) hanswer).imp
      fun _ hanswer => hanswer.of_untouched (by simp)
  | noCount h1 hbit h12 =>
    obtain ⟨hstep, -⟩ := countStepFromBuffer s k h.inputs hp ht hc h1 hbit
    exact reaches_of_step h hb (hstep h12) ⟨rfl, rfl, rfl⟩
  | countTooDeep h12 hbit hd =>
    obtain ⟨-, hstep, -⟩ := countStepFromBuffer s k h.inputs hp ht hc (by omega) hbit
    exact reaches_of_step h hb (hstep h12 (not_roomOnStack_of_atMaxDepth hd)) ⟨rfl, rfl, rfl⟩
  | count h12 hbit hd =>
    have hstep := (step_oph_count h.inputs hp ht hc (by omega) hbit).trans
      (openCount_of_pushed h12 (roomOnStack_iff.2 hd))
    refine .after hstep ((hcount _ _ _ _ (h.of_step hb hstep) rfl rfl rfl).bind fun t ht hanswer => ?_)
    exact (close_count ht rfl rfl hanswer).imp fun _ hanswer => hanswer.of_untouched (by simp)

/-! ## A packet from its header on -/

theorem Undisturbed.step_hdr {s : State} (h : Undisturbed s) (hp : s.phase = .hdr) (hb : s.busy = true) :
    step s = headerStep (storedField s.mem 3 s.cur.addr) (storedField s.mem 3 (s.cur.addr + 3)) s :=
  (step_of_no_input h.inputs).trans (sequencer_hdr hp (h.run hb).cursorInBuffer)

theorem packet_reaches {fuel : Nat} (hwindow : WindowReaches fuel) (hcount : CountReaches fuel) :
    PacketReaches (fuel + 1) := by
  intro s h hp
  have hb : s.busy = true := busy_iff.2 (.inl hp)
  have hstep := h.step_hdr hp hb
  have he := refPacket_reads s.params s.mem fuel s.cur s.sp
  generalize refPacket s.params s.mem (fuel + 1) s.cur s.sp = r at he ⊢
  cases he with
  | noVersion h3 => exact reaches_of_step h hb (hstep.trans (headerStep_of_no_version h3)) ⟨rfl, rfl, rfl⟩
  | noTypeId h3 h6 => exact reaches_of_step h hb (hstep.trans (headerStep_of_no_typeId h3 h6)) ⟨rfl, rfl, rfl⟩
  | literal h6 ht =>
    have hstep := hstep.trans (headerStep_of_literal h6 ht)
    exact .after hstep ((groups_reach (h.of_step hb hstep) rfl).imp
      fun _ hanswer => hanswer.of_untouched (by simp))
  | operator k h6 ht =>
    have hstep := hstep.trans (headerStep_of_operator h6 (ht ▸ typeId_ne_literal k))
    exact .after hstep ((operator_reaches hwindow hcount (h.of_step hb hstep) rfl ht).imp
      fun _ hanswer => hanswer.of_untouched (by simp))

/-! ## The loops -/

theorem setPhase_setPhase (ph ph' : Phase) (s : State) : setPhase ph (setPhase ph' s) = setPhase ph s := rfl

theorem setPhase_of_eq {s : State} {ph : Phase} (h : s.phase = ph) : setPhase ph s = s := by rw [← h]; rfl

/-- The machine has decoded a child of the frame `f` that was on top in `s`, and stands at the frame's NEXT step. -/
def ChildDone (s : State) (f : Frame) (rest : List Frame) (p : Packet) (c : Cursor) (t : State) : Prop :=
  visible t = visible (setPhase .next (setCur c (setStk (f.closing f.mode [p] :: rest) s)))

theorem Frame.closing_closing (f : Frame) (mode mode' : FrameMode) (ps qs : List Packet) :
    (f.closing mode ps).closing mode' qs = f.closing mode' (ps ++ qs) := by
  simp only [Frame.closing, List.append_assoc]

/-- One turn of a loop over children: the machine decodes a child and goes on with the loop. -/
theorem loop_turn {fuel : Nat} (hpacket : PacketReaches fuel) {s : State} {f : Frame} {rest : List Frame}
    {mode : FrameMode} {loop : Cursor → RefChildren} (h : Undisturbed s) (hp : s.phase = .hdr) (hs : s.stk = f :: rest)
    (hloop : ∀ p c t, Undisturbed t → ChildDone s f rest p c t →
      Reaches t (ChildrenAnswer t (f.closing f.mode [p]) rest mode (loop c))) :
    Reaches s (ChildrenAnswer (setPhase .next s) f rest mode
      ((refPacket s.params s.mem fuel s.cur s.sp).followedBy loop)) := by
  refine (hpacket s h hp).bind fun t ht hanswer => ?_
  cases hr : refPacket s.params s.mem fuel s.cur s.sp with
  | raised => rw [hr] at hanswer; exact .here ht hanswer
  | outOfFuel => exact .here ht trivial
  | ok p c =>
    rw [hr] at hanswer
    have hdone : ChildDone s f rest p c t := hanswer.trans (congrArg visible (complete_child (s := setCur c s) hs))
    refine (hloop p c t ht hdone).imp fun u hu => ?_
    simp only [RefResult.followedBy]
    generalize loop c = others at hu ⊢
    cases others with
    | raised => exact hu
    | outOfFuel => trivial
    | ok ps c' =>
      have hu : visible u = visible (setCur c' (setStk ((f.closing f.mode [p]).closing mode ps :: rest) t)) := hu
      rw [Frame.closing_closing] at hu
      refine hu.trans ?_
      rw [visible_setCur, visible_setStk, show visible t = _ from hdone]
      rfl

section
variable {s t : State} {f : Frame} {rest : List Frame} {p : Packet} {c : Cursor} (h : ChildDone s f rest p c t)
include h

theorem ChildDone.phase : t.phase = .next := phase_eq_of_visible h

theorem ChildDone.stk : t.stk = f.closing f.mode [p] :: rest := stk_eq_of_visible h

theorem ChildDone.params : t.params = s.params := (params_eq_of_visible h).trans rfl

theorem ChildDone.mem : t.mem = s.mem := (mem_eq_of_visible h).trans rfl

theorem ChildDone.cur : t.cur = c := cur_eq_of_visible h

theorem ChildDone.sp (hs : s.stk = f :: rest) : t.sp = s.sp := by
  rw [State.sp, State.sp, h.stk, hs, List.length_cons, List.length_cons]

end

/-- A loop that finds nothing left to decode has answered already. -/
theorem no_child_left {s : State} {f : Frame} {rest : List Frame} (hs : s.stk = f :: rest) :
    ChildrenAnswer s f rest f.mode (.ok [] s.cur) s := by
  have hclosing : f.closing f.mode [] = f := by simp [Frame.closing]
  have hstk : setStk (f :: rest) s = s := by rw [← hs]; rfl
  show visible s = visible (setCur s.cur (setStk (f.closing f.mode [] :: rest) s))
  rw [hclosing, hstk]; rfl

theorem window_reaches {fuel : Nat} (hpacket : PacketReaches fuel) (hwindow : WindowReaches fuel) :
    WindowReaches (fuel + 1) := by
  intro s f rest total parent h hp hs hm
  have hb : s.busy = true := busy_iff.2 (.inr (.inr (.inr hp)))
  by_cases hexh : s.cur.exhausted s.params.exhSlack = true
  · rw [refWindow_of_exhausted hexh]; exact .here h (no_child_left hs)
  · rw [refWindow_of_child hexh]
    have hstep := (step_next_l0 h.inputs hp hs hm).trans (nextWindow_of_child (by simpa [Cursor.exhausted] using hexh))
    have hturn := loop_turn hpacket (h.of_step hb hstep) rfl hs (mode := f.mode)
      (loop := fun c => refWindow s.params s.mem fuel c s.sp) fun p c t ht hdone => by
        have hnext := hwindow t _ rest total parent ht hdone.phase hdone.stk hm
        rwa [hdone.params, hdone.mem, hdone.cur, hdone.sp hs] at hnext
    rw [setPhase_setPhase, setPhase_of_eq hp] at hturn
    exact .after hstep hturn

/-- The answer of a loop does not depend on the top frame's MODE when it began. -/
theorem ChildrenAnswer.of_counted {s t : State} {f : Frame} {rest : List Frame} {mode left : FrameMode}
    {r : RefChildren}
    (h : ChildrenAnswer (setStk ({ f with mode := left } :: rest) s) { f with mode := left } rest mode r t) :
    ChildrenAnswer s f rest mode r t := by
  cases r with
  | ok ps c => exact h
  | raised => exact h
  | outOfFuel => trivial

theorem count_reaches {fuel : Nat} (hpacket : PacketReaches fuel) (hcount : CountReaches fuel) :
    CountReaches (fuel + 1) := by
  intro s f rest cnt h hp hs hm
  have hb : s.busy = true := busy_iff.2 (.inr (.inr (.inr hp)))
  by_cases h0 : cnt = 0
  · subst h0
    have hnone := no_child_left hs
    rw [hm] at hnone
    exact .here h hnone
  · have hleft : cnt.toNat = (cnt - 1).toNat + 1 := by bv_omega
    have hstep := (step_next_l1 h.inputs hp hs hm).trans (if_neg h0)
    have hsp : (setPhase .hdr (setStk ({ f with mode := .l1 (cnt - 1) } :: rest) s)).sp = s.sp := by
      simp [State.sp, hs]
    have hphase : ∀ v, setPhase .next (setStk v s) = setStk v s := fun v => setPhase_of_eq (s := setStk v s) hp
    have hturn := loop_turn hpacket (h.of_step hb hstep) rfl rfl (mode := .l1 0)
      (loop := fun c => refCount s.params s.mem fuel (cnt - 1).toNat c s.sp) fun p c t ht hdone => by
        have hnext := hcount t _ rest (cnt - 1) ht hdone.phase hdone.stk rfl
        rwa [hdone.params, hdone.mem, hdone.cur, hdone.sp rfl, hsp] at hnext
    rw [setPhase_setPhase, hphase, hsp] at hturn
    rw [hleft, refCount_succ]
    exact .after hstep (hturn.imp fun _ => ChildrenAnswer.of_counted)

/-- By induction on the fuel the three parts share. -/
theorem ref_reaches (fuel : Nat) : PacketReaches fuel ∧ WindowReaches fuel ∧ CountReaches fuel := by
  induction fuel with
  | zero =>
    exact ⟨fun _ h _ => .here h trivial, fun _ _ _ _ _ h _ _ _ => .here h trivial,
      fun _ _ _ _ h _ _ _ => .here h trivial⟩
  | succ fuel ih =>
    obtain ⟨hpacket, hwindow, hcount⟩ := ih
    exact ⟨packet_reaches hwindow hcount, window_reaches hpacket hwindow, count_reaches hpacket hcount⟩

/-! ## The whole run -/

/-- A run ends in the state that shows the answer of the recursion. -/
theorem started_reaches {s : State} (h : Started s) : Reaches s (Answers s (refRun s.params s.mem s.buflen)) := by
  have hreach := (ref_reaches (s.buflen + 2)).1 s (undisturbed_of_started h) h.2.1
  obtain ⟨-, -, hcur, hstk⟩ := h
  have hsp : s.sp = 0 := by rw [State.sp, hstk]; rfl
  rwa [hcur, hsp] at hreach

/-- The end of the run that an answer means. -/
theorem Answers.of_ok {s t : State} {p : Packet} {c : Cursor} (h : Answers s (.ok p c) t) (hs : s.stk = []) :
    visible t = visible (finishRun p (setCur c s)) :=
  h.trans (congrArg visible (complete_root (s := setCur c s) hs))

/-- The run has ended in a state that shows the answer of the recursion. -/
theorem started_ends {s : State} (h : Started s) :
    Reaches s fun t => Ended t ∧ Answers s (refRun s.params s.mem s.buflen) t := by
  refine (started_reaches h).imp fun t hanswer => ⟨?_, hanswer⟩
  cases hr : refRun s.params s.mem s.buflen with
  | ok p c => rw [hr] at hanswer; exact .inl (phase_eq_of_visible (hanswer.of_ok h.2.2.2))
  | raised k a => rw [hr] at hanswer; exact .inr hanswer.1
  | outOfFuel => exact absurd hr (refRun_ne_outOfFuel _ _ _)

/-- Settles O48: the answer the run ends with decides both equivalences, and `refRun` has one. -/
theorem stepMachineEqualsRecursion : Obligations.StepMachineEqualsRecursion := by
  intro s h
  obtain ⟨n, t, hn, -, hended, hanswer⟩ := started_ends h
  refine ⟨n, t, hn, hended, ?_⟩
  cases hr : refRun s.params s.mem s.buflen with
  | ok p c =>
    rw [hr] at hanswer
    have ht := hanswer.of_ok h.2.2.2
    have hphase : t.phase = .done := phase_eq_of_visible ht
    have htree : t.tree = some p := (congrArg State.tree ht :)
    have hend : t.endpos = c.pos := (congrArg State.endpos ht :)
    refine ⟨fun q e => ?_, fun k a => by simp [hphase]⟩
    rw [hphase, htree, hend]
    constructor
    · rintro ⟨-, hq, rfl⟩; obtain rfl := Option.some.inj hq; exact ⟨c, rfl, rfl⟩
    · rintro ⟨c', hok, rfl⟩; obtain ⟨rfl, rfl⟩ := RefResult.ok.inj hok; exact ⟨rfl, rfl, rfl⟩
  | raised k a =>
    rw [hr] at hanswer
    obtain ⟨hphase, hderr, hepos⟩ := hanswer
    exact ⟨fun q e => by simp [hphase], fun k' a' => by simp [hphase, hderr, hepos]⟩
  | outOfFuel => exact absurd hr (refRun_ne_outOfFuel _ _ _)

end Sys2Proof.Machine
end

section
/-! PROOFS of the family 41_packet_decoder.md, part 5: padding is never read (R117). What the recursive definition
answers as a packet depends on no bit behind the packet, and on the length of the outermost range only in that the
packet fits. -/

namespace Sys2Proof.Machine

open Sys2Proof Sys2Proof.Safety

/-! ## Another buffer with the same packet -/

/-- The first `e` bits of two stores are the same. -/
def AgreeBelow (m m' : List Host.Cell) (e : Nat) : Prop := ∀ i, i < e → readBit m' i = readBit m i

theorem AgreeBelow.mono {m m' : List Host.Cell} {e e' : Nat} (h : AgreeBelow m m' e) (he : e' ≤ e) :
    AgreeBelow m m' e' := fun i hi => h i (Nat.lt_of_lt_of_le hi he)

theorem AgreeBelow.storedField {m m' : List Host.Cell} {e n a : Nat} (h : AgreeBelow m m' e) (ha : a + n ≤ e) :
    storedField m' n a = storedField m n a :=
  congrArg (BitVec.ofNat n) (readNat_congr fun i _ hi => h i (by omega))

/-- The same cursor on a range of another length. -/
def Cursor.resized (c : Cursor) (l : Nat) : Cursor := { c with len := l }

@[simp] theorem Cursor.addr_resized (c : Cursor) (l : Nat) : (c.resized l).addr = c.addr := rfl

@[simp] theorem Cursor.rem_resized (c : Cursor) (l : Nat) : (c.resized l).rem = l - c.pos := rfl

@[simp] theorem Cursor.resized_ahead (c : Cursor) (l n : Nat) : (c.resized l).ahead n = (c.ahead n).resized l := rfl

theorem Cursor.resized_of_eq {c : Cursor} {l : Nat} (h : c.len = l) : c.resized l = c := by rw [← h]; rfl

/-- The second cursor is the first, or stands behind it. -/
def Cursor.NotBefore (c c' : Cursor) : Prop := c' = c ∨ c.Past c'

theorem Cursor.NotBefore.refl (c : Cursor) : c.NotBefore c := .inl rfl

theorem Cursor.NotBefore.pos_le {c c' : Cursor} (h : c.NotBefore c') : c.pos ≤ c'.pos := by
  rcases h with rfl | h
  · exact le_rfl
  · exact h.pos.le

theorem Cursor.NotBefore.base_eq {c c' : Cursor} (h : c.NotBefore c') : c'.base = c.base := by
  rcases h with rfl | h
  · rfl
  · exact h.base

theorem Cursor.NotBefore.addr_le {c c' : Cursor} (h : c.NotBefore c') : c.addr ≤ c'.addr := by
  have hpos := h.pos_le
  have hbase := h.base_eq
  simp only [Cursor.addr]; omega

/-- The bits up to a later cursor fit the range that the later cursor fits. -/
theorem Cursor.NotBefore.le_rem_resized {c c' : Cursor} {n l : Nat} (h : (c.ahead n).NotBefore c') (hl : c'.pos ≤ l) :
    n ≤ (c.resized l).rem := by
  have hpos : c.pos + n ≤ c'.pos := h.pos_le
  rw [Cursor.rem_resized]; omega

/-- What ends no later than a later cursor is the same where the bits before that cursor are. -/
theorem Cursor.NotBefore.agreeBelow {c c' : Cursor} {m m' : List Host.Cell} {n : Nat} (h : (c.ahead n).NotBefore c')
    (hagree : AgreeBelow m m' c'.addr) : AgreeBelow m m' (c.addr + n) :=
  hagree.mono ((Cursor.addr_ahead c n).symm.trans_le h.addr_le)

section
variable {p : Params} {m : List Host.Cell} {fuel d : Nat} {c c' : Cursor}

theorem refGroups_past {ver : Version} {acc : Value} {pkt : Packet} (h : refGroups m ver fuel acc c = .ok pkt c') :
    c.Past c' := by
  have hb := refGroups_bounded m ver fuel acc c
  rwa [h] at hb

theorem refPacket_past {pkt : Packet} (h : refPacket p m fuel c d = .ok pkt c') : c.Past c' := by
  have hb := (ref_bounded p m fuel).1 c d
  rwa [h] at hb

theorem refOperator_past {ver : Version} {k : Kind} {pkt : Packet}
    (h : refOperator p m fuel ver k c d = .ok pkt c') : c.Past c' := by
  obtain ⟨-, hwindow, hcount⟩ := ref_bounded p m fuel
  have hb := refOperator_bounded hwindow hcount ver k c d
  rwa [h] at hb

theorem refWindow_notBefore {ps : List Packet} (h : refWindow p m fuel c d = .ok ps c') : c.NotBefore c' := by
  have hb := (ref_bounded p m fuel).2.1 c d
  rwa [h] at hb

theorem refCount_notBefore {count : Nat} {ps : List Packet} (h : refCount p m fuel count c d = .ok ps c') :
    c.NotBefore c' := by
  have hb := (ref_bounded p m fuel).2.2 count c d
  rwa [h] at hb

end

/-! ## Answers that another buffer repeats, unless its fuel runs out -/

/-- The packet `pkt`, with the cursor left at `c`. -/
def RefResult.Repeats (pkt : Packet) (c : Cursor) (r : RefResult) : Prop := r = .outOfFuel ∨ r = .ok pkt c

/-- The children `ps`, with the cursor left at `c`. -/
def RefChildren.Repeats (ps : List Packet) (c : Cursor) (r : RefChildren) : Prop := r = .outOfFuel ∨ r = .ok ps c

theorem groups_repeat {m m' : List Host.Cell} {ver : Version} {fuel fuel' l : Nat} {acc : Value} {c c' : Cursor}
    {pkt : Packet} (h : refGroups m ver fuel acc c = .ok pkt c') (hagree : AgreeBelow m m' c'.addr) (hl : c'.pos ≤ l) :
    (refGroups m' ver fuel' acc (c.resized l)).Repeats pkt (c'.resized l) := by
  induction fuel generalizing fuel' acc c with
  | zero => cases h
  | succ fuel ih =>
    cases fuel' with
    | zero => exact .inl rfl
    | succ fuel' =>
      have he := refGroups_reads m ver fuel acc c
      rw [h] at he
      generalize hr : RefResult.ok pkt c' = r at he
      cases he with
      | noGroup => cases hr
      | overflow => cases hr
      | more h5 ha hg =>
        have hlater : (c.ahead 5).NotBefore c' := .inr (refGroups_past hr.symm)
        rw [refGroups_of_room (hlater.le_rem_resized hl) ha, Cursor.addr_resized, Cursor.resized_ahead,
          (hlater.agreeBelow hagree).storedField le_rfl, if_pos hg]
        exact ih hr.symm
      | last h5 ha hg =>
        obtain ⟨rfl, rfl⟩ := RefResult.ok.inj hr
        have hlater := Cursor.NotBefore.refl (c.ahead 5)
        rw [refGroups_of_room (hlater.le_rem_resized hl) ha, Cursor.addr_resized, Cursor.resized_ahead,
          (hlater.agreeBelow hagree).storedField le_rfl, if_neg (by rw [hg]; decide)]
        exact .inr rfl

/-! ## The three parts of the recursion, at one fuel -/

/-- A packet that one buffer gives, any buffer with the same bits up to its end gives. -/
def PacketRepeats (p : Params) (m m' : List Host.Cell) (fuel : Nat) : Prop :=
  ∀ (c : Cursor) (d : Nat) (pkt : Packet) (c' : Cursor) (l fuel' : Nat), refPacket p m fuel c d = .ok pkt c' →
    AgreeBelow m m' c'.addr → c'.pos ≤ l → (refPacket p m' fuel' (c.resized l) d).Repeats pkt (c'.resized l)

/-- The children in a window likewise; the window has the same length in both buffers. -/
def WindowRepeats (p : Params) (m m' : List Host.Cell) (fuel : Nat) : Prop :=
  ∀ (c : Cursor) (d : Nat) (ps : List Packet) (c' : Cursor) (fuel' : Nat), refWindow p m fuel c d = .ok ps c' →
    AgreeBelow m m' c'.addr → (refWindow p m' fuel' c d).Repeats ps c'

/-- The children that are counted likewise. -/
def CountRepeats (p : Params) (m m' : List Host.Cell) (fuel : Nat) : Prop :=
  ∀ (count : Nat) (c : Cursor) (d : Nat) (ps : List Packet) (c' : Cursor) (l fuel' : Nat),
    refCount p m fuel count c d = .ok ps c' → AgreeBelow m m' c'.addr → c'.pos ≤ l →
    (refCount p m' fuel' count (c.resized l) d).Repeats ps (c'.resized l)

section
variable {p : Params} {m m' : List Host.Cell} {fuel : Nat}

theorem operator_repeats (hwindow : WindowRepeats p m m' fuel) (hcount : CountRepeats p m m' fuel) {fuel' l d : Nat}
    {ver : Version} {k : Kind} {c c' : Cursor} {pkt : Packet} (h : refOperator p m fuel ver k c d = .ok pkt c')
    (hagree : AgreeBelow m m' c'.addr) (hl : c'.pos ≤ l) :
    (refOperator p m' fuel' ver k (c.resized l) d).Repeats pkt (c'.resized l) := by
  have he := refOperator_reads p m fuel ver k c d
  rw [h] at he
  generalize hr : RefResult.ok pkt c' = r at he
  cases he with
  | window hfit hbit hd =>
    obtain ⟨ps, view, hview, hpos, hroom, rfl, rfl⟩ := refCloseL0_eq_ok hr.symm
    rw [Cursor.ahead_ahead] at hagree hl ⊢
    have hlater := Cursor.NotBefore.refl (c.ahead (16 + (storedField m 15 (c.addr + 1)).toNat))
    have hsame := hlater.agreeBelow hagree
    have hlen := hsame.storedField (n := 15) (a := c.addr + 1) (by omega)
    have hbit' : readBit m' c.addr = false := (hsame _ (by omega)).trans hbit
    have hfit' := hlater.le_rem_resized hl
    have hbase : view.base = c.addr + 16 := (refWindow_notBefore hview).base_eq
    have hview' : AgreeBelow m m' view.addr := hsame.mono (by rw [Cursor.addr, hbase]; omega)
    rw [refOperator_of_window (c := c.resized l) hbit' (by rw [Cursor.addr_resized, hlen]; exact hfit') hd,
      Cursor.addr_resized, hlen]
    rcases hwindow _ _ _ _ fuel' hview hview' with hout | hok
    · rw [hout]; exact .inl rfl
    · rw [hok, refCloseL0_ok hpos (by rw [Cursor.rem_ahead]; omega), Cursor.ahead_ahead, Cursor.resized_ahead]
      exact .inr rfl
  | count h12 hbit hd =>
    obtain ⟨ps, hps, rfl⟩ := refCloseL1_eq_ok hr.symm
    have hlater : (c.ahead 12).NotBefore c' := refCount_notBefore hps
    have hsame := hlater.agreeBelow hagree
    have hcnt := hsame.storedField (n := 11) (a := c.addr + 1) (by omega)
    have hbit' : readBit m' c.addr = true := (hsame _ (by omega)).trans hbit
    rw [refOperator_of_count (c := c.resized l) hbit' (hlater.le_rem_resized hl) hd, Cursor.addr_resized, hcnt,
      Cursor.resized_ahead]
    rcases hcount _ _ _ _ _ l fuel' hps hagree hl with hout | hok
    · rw [hout]; exact .inl rfl
    · rw [hok]; exact .inr rfl
  | _ => cases hr

theorem packet_repeats (hwindow : WindowRepeats p m m' fuel) (hcount : CountRepeats p m m' fuel) :
    PacketRepeats p m m' (fuel + 1) := by
  intro c d pkt c' l fuel' h hagree hl
  cases fuel' with
  | zero => exact .inl rfl
  | succ fuel' =>
    have he := refPacket_reads p m fuel c d
    rw [h] at he
    generalize hr : RefResult.ok pkt c' = r at he
    cases he with
    | noVersion => cases hr
    | noTypeId => cases hr
    | literal h6 ht =>
      have hlater : (c.ahead 6).NotBefore c' := .inr (refGroups_past hr.symm)
      have hsame := hlater.agreeBelow hagree
      have htid := hsame.storedField (n := 3) (a := c.addr + 3) (by omega)
      rw [refPacket_of_literal (hlater.le_rem_resized hl) (htid.trans ht), Cursor.addr_resized, Cursor.resized_ahead,
        hsame.storedField (by omega)]
      exact groups_repeat hr.symm hagree hl
    | operator k h6 ht =>
      have hlater : (c.ahead 6).NotBefore c' := .inr (refOperator_past hr.symm)
      have hsame := hlater.agreeBelow hagree
      have htid := hsame.storedField (n := 3) (a := c.addr + 3) (by omega)
      rw [refPacket_of_operator (hlater.le_rem_resized hl) (htid.trans ht), Cursor.addr_resized, Cursor.resized_ahead,
        hsame.storedField (by omega)]
      exact operator_repeats hwindow hcount hr.symm hagree hl

/-- A first child and its followers that are repeated each are repeated together. -/
theorem followedBy_repeats {r : RefResult} {rest : Cursor → RefChildren} {first : Packet} {others : List Packet}
    {c c' : Cursor} (hr : r.Repeats first c) (hrest : (rest c).Repeats others c') :
    (r.followedBy rest).Repeats (first :: others) c' := by
  rcases hr with rfl | rfl
  · exact .inl rfl
  · simp only [RefResult.followedBy]
    rcases hrest with hrest | hrest
    · rw [hrest]; exact .inl rfl
    · rw [hrest]; exact .inr rfl

theorem window_repeats (hpacket : PacketRepeats p m m' fuel) (hwindow : WindowRepeats p m m' fuel) :
    WindowRepeats p m m' (fuel + 1) := by
  intro c d ps c' fuel' h hagree
  cases fuel' with
  | zero => exact .inl rfl
  | succ fuel' =>
    by_cases hexh : c.exhausted p.exhSlack = true
    · rw [refWindow_of_exhausted hexh] at h ⊢; exact .inr h
    · rw [refWindow_of_child hexh] at h ⊢
      obtain ⟨first, c₁, others, hfirst, hothers, rfl⟩ := followedBy_eq_ok h
      have hpast := refPacket_past hfirst
      have hsame := hagree.mono (refWindow_notBefore hothers).addr_le
      have hrepeat := hpacket c d first c₁ c.len fuel' hfirst hsame (hpast.len ▸ hpast.within)
      rw [Cursor.resized_of_eq rfl, Cursor.resized_of_eq hpast.len] at hrepeat
      exact followedBy_repeats hrepeat (hwindow _ _ _ _ _ hothers hagree)

theorem count_repeats (hpacket : PacketRepeats p m m' fuel) (hcount : CountRepeats p m m' fuel) :
    CountRepeats p m m' (fuel + 1) := by
  intro count c d ps c' l fuel' h hagree hl
  cases fuel' with
  | zero => exact .inl rfl
  | succ fuel' =>
    cases count with
    | zero =>
      obtain ⟨rfl, rfl⟩ := RefChildren.ok.inj (refCount_zero.symm.trans h)
      exact .inr rfl
    | succ count =>
      rw [refCount_succ] at h ⊢
      obtain ⟨first, c₁, others, hfirst, hothers, rfl⟩ := followedBy_eq_ok h
      have hlater := refCount_notBefore hothers
      exact followedBy_repeats (hpacket _ _ _ _ l fuel' hfirst (hagree.mono hlater.addr_le) (hlater.pos_le.trans hl))
        (hcount _ _ _ _ _ l fuel' hothers hagree hl)

end

/-- By induction on the fuel the three parts share. -/
theorem ref_repeats (p : Params) (m m' : List Host.Cell) (fuel : Nat) :
    PacketRepeats p m m' fuel ∧ WindowRepeats p m m' fuel ∧ CountRepeats p m m' fuel := by
  induction fuel with
  | zero =>
    refine ⟨?_, ?_, ?_⟩
    · intro c d pkt c' l fuel' h; cases h
    · intro c d ps c' fuel' h; cases h
    · intro count c d ps c' l fuel' h; cases h
  | succ fuel ih =>
    obtain ⟨hpacket, hwindow, hcount⟩ := ih
    exact ⟨packet_repeats hwindow hcount, window_repeats hpacket hwindow, count_repeats hpacket hcount⟩

/-- The outermost packet and its end do not depend on what follows it (41_packet_decoder.md R117). -/
theorem refRun_repeats {p : Params} {m m' : List Host.Cell} {buflen buflen' : Nat} {pkt : Packet} {c : Cursor}
    (h : refRun p m buflen = .ok pkt c) (hagree : AgreeBelow m m' c.pos) (hl : c.pos ≤ buflen') :
    refRun p m' buflen' = .ok pkt (c.resized buflen') := by
  have haddr : c.addr = c.pos := by
    have hbase : c.base = 0 := (refPacket_past h).base
    rw [Cursor.addr, hbase, Nat.zero_add]
  rw [← haddr] at hagree
  rcases (ref_repeats p m m' (buflen + 2)).1 _ _ _ _ buflen' (buflen' + 2) h hagree hl with hout | hok
  · exact absurd hout (refRun_ne_outOfFuel p m' buflen')
  · exact hok

/-! ## The end of a run -/

theorem Undisturbed.run_keeps {n : Nat} {s t : State} (h : Undisturbed s) (hn : Sys2Proof.core.run n s = .next t) :
    Undisturbed t := by
  induction n generalizing s with
  | zero => obtain rfl := Host.Outcome.next.inj hn; exact h
  | succ n ih =>
    obtain ⟨u, hu, hn⟩ := run_succ_inv hn
    cases hb : s.busy with
    | false =>
      obtain rfl := Host.Outcome.next.inj ((endedRunsStay s hb h.inputs).symm.trans hu)
      exact ih h hn
    | true => exact ih (h.of_step hb hu) hn

theorem Undisturbed.run_of_ended {s : State} (h : Undisturbed s) (hb : s.busy = false) (n : Nat) :
    Sys2Proof.core.run n s = .next s := by
  induction n with
  | zero => rfl
  | succ n ih => exact (run_succ n (endedRunsStay s hb h.inputs)).trans ih

/-- A run has one end, whenever it is looked at. -/
theorem Undisturbed.end_unique {n n' : Nat} {s t t' : State} (ht : Undisturbed t) (ht' : Undisturbed t')
    (hb : t.busy = false) (hb' : t'.busy = false) (hn : Sys2Proof.core.run n s = .next t)
    (hn' : Sys2Proof.core.run n' s = .next t') : t = t' := by
  have hlate := (run_add n' hn).trans (ht.run_of_ended hb n')
  have hlate' := (run_add n hn').trans (ht'.run_of_ended hb' n)
  rw [Nat.add_comm] at hlate
  exact Host.Outcome.next.inj (hlate.symm.trans hlate')

theorem not_busy_of_ended {s : State} (h : Ended s) : s.busy = false := not_busy_iff.2 (.inr h)

/-- A run that ends in DONE shows the packet the recursion answers. -/
theorem refRun_of_done {n : Nat} {s t : State} (h : Started s) (hn : Sys2Proof.core.run n s = .next t)
    (hdone : t.phase = .done) :
    ∃ p c, refRun s.params s.mem s.buflen = .ok p c ∧ visible t = visible (finishRun p (setCur c s)) := by
  obtain ⟨n', t', hn', ht', hended, hanswer⟩ := started_ends h
  have ht := (undisturbed_of_started h).run_keeps hn
  obtain rfl := ht.end_unique ht' (not_busy_of_ended (.inl hdone)) (not_busy_of_ended hended) hn hn'
  cases hr : refRun s.params s.mem s.buflen with
  | ok p c => rw [hr] at hanswer; exact ⟨p, c, rfl, hanswer.of_ok h.2.2.2⟩
  | raised k a =>
    rw [hr] at hanswer
    obtain ⟨hfault, -⟩ := hanswer
    rw [hdone] at hfault; cases hfault
  | outOfFuel => exact absurd hr (refRun_ne_outOfFuel _ _ _)

/-- Settles O50: the recursion answers the same packet on the other buffer, so its run ends with the same results. -/
theorem paddingIndependence : Obligations.PaddingIndependence := by
  intro s s' t n h h' hparams hn hdone hl hagree
  obtain ⟨p, c, hok, ht⟩ := refRun_of_done h hn hdone
  have hend : t.endpos = c.pos := (congrArg State.endpos ht :)
  rw [hend] at hl hagree
  obtain ⟨n', t', hn', -, hanswer⟩ := started_reaches h'
  rw [← hparams, refRun_repeats hok hagree hl] at hanswer
  have ht' := hanswer.of_ok h'.2.2.2
  exact ⟨n', t', hn', phase_eq_of_visible ht',
    (congrArg State.tree ht' :).trans (congrArg State.tree ht :).symm,
    (congrArg State.endpos ht' :).trans (congrArg State.endpos ht :).symm,
    (congrArg State.vsum ht' :).trans (congrArg State.vsum ht :).symm,
    (congrArg State.value ht' :).trans (congrArg State.value ht :).symm,
    (congrArg State.everr ht' :).trans (congrArg State.everr ht :).symm⟩

end Sys2Proof.Machine
end

section
/-! PROOFS of the family 42_evaluator.md: what `count_versions` and `evaluate` answer. `combine` is EvalMalformed
exactly on a wrong number of values, and keeps values below the bound of the datapath. -/

namespace Sys2Proof.Machine

open Sys2Proof

/-! ## count_versions (42_evaluator.md R140, R142) -/

theorem Packets.countVersions_ofList (children : List Packet) :
    (Packets.ofList children).countVersions = (children.map Packet.countVersions).sum := by
  induction children with
  | nil => rfl
  | cons p ps ih => rw [Packets.ofList, Packets.countVersions, ih, List.map_cons, List.sum_cons]

/-- Settles O51: by induction over the list of children. -/
theorem versionSumAdditive : Obligations.VersionSumAdditive :=
  ⟨fun _ _ => rfl, fun ver _ children => congrArg (ver.toNat + ·) (Packets.countVersions_ofList children)⟩

/-! ## The loops of `combine` (42_evaluator.md R145 to R152) -/

/-- Values are not negative, so a partial sum overflows exactly where the total does (R145). -/
theorem sumFrom_eq {acc : Nat} (hacc : acc < evalBound) (vs : List Nat) :
    sumFrom acc vs = if acc + vs.sum < evalBound then .ok (acc + vs.sum) else .err .evalOverflow := by
  induction vs generalizing acc with
  | nil => simp [sumFrom, hacc]
  | cons v vs ih =>
    rw [sumFrom, List.sum_cons, ← Nat.add_assoc]
    split
    next hover => rw [if_neg (by omega)]
    next hfits => exact ih (by omega)

theorem productFrom_of_lt {acc : Nat} {vs : List Nat} (h : ∀ n, acc * (vs.take n).prod < evalBound) :
    productFrom acc vs = .ok (acc * vs.prod) := by
  induction vs generalizing acc with
  | nil => simp [productFrom]
  | cons v vs ih =>
    have hlater n : acc * v * (vs.take n).prod < evalBound := by simpa [Nat.mul_assoc] using h (n + 1)
    have hfirst : acc * v < evalBound := by simpa using hlater 0
    rw [productFrom, if_neg (Nat.not_le_of_lt hfirst), ih hlater, List.prod_cons, Nat.mul_assoc]

/-- The first partial product that is not below the bound ends the loop, whatever the later factors are (R146). -/
theorem productFrom_of_le {acc n : Nat} {vs : List Nat} (hacc : acc < evalBound)
    (h : evalBound ≤ acc * (vs.take n).prod) : productFrom acc vs = .err .evalOverflow := by
  induction vs generalizing acc n with
  | nil => simp at h; omega
  | cons v vs ih =>
    rw [productFrom]
    split
    next => rfl
    next hfits =>
      cases n with
      | zero => simp at h; omega
      | succ n => exact ih (n := n) (by omega) (by simpa [Nat.mul_assoc] using h)

theorem productFrom_lt {acc a : Nat} {vs : List Nat} (hacc : acc < evalBound) (h : productFrom acc vs = .ok a) :
    a < evalBound := by
  induction vs generalizing acc with
  | nil => cases h; exact hacc
  | cons v vs ih =>
    rw [productFrom] at h
    split at h
    next => cases h
    next hfits => exact ih (Nat.lt_of_not_le hfits) h

theorem sumFrom_lt {acc a : Nat} {vs : List Nat} (hacc : acc < evalBound) (h : sumFrom acc vs = .ok a) :
    a < evalBound := by
  rw [sumFrom_eq hacc] at h
  split at h
  next hfits => cases h; exact hfits
  next => cases h

theorem sumFrom_ne_malformed (acc : Nat) (vs : List Nat) : sumFrom acc vs ≠ .err .evalMalformed := by
  induction vs generalizing acc with
  | nil => exact EvalResult.noConfusion
  | cons v vs ih =>
    rw [sumFrom]
    split
    · decide
    · exact ih _

theorem productFrom_ne_malformed (acc : Nat) (vs : List Nat) : productFrom acc vs ≠ .err .evalMalformed := by
  induction vs generalizing acc with
  | nil => exact EvalResult.noConfusion
  | cons v vs ih =>
    rw [productFrom]
    split
    · decide
    · exact ih _

/-- The loop of MIN is the library's minimum of a list that is not empty (R147). -/
theorem min?_cons_eq_minFrom (acc : Nat) (vs : List Nat) : (acc :: vs).min? = some (minFrom acc vs) := by
  rw [List.min?_cons']
  induction vs generalizing acc with
  | nil => rfl
  | cons v vs ih =>
    rw [List.foldl_cons, ih, minFrom]
    congr 2
    split <;> omega

/-- The loop of MAX is the library's maximum of a list that is not empty (R148). -/
theorem max?_cons_eq_maxFrom (acc : Nat) (vs : List Nat) : (acc :: vs).max? = some (maxFrom acc vs) := by
  rw [List.max?_cons']
  induction vs generalizing acc with
  | nil => rfl
  | cons v vs ih =>
    rw [List.foldl_cons, ih, maxFrom]
    congr 2
    split <;> omega

theorem minFrom_least (acc : Nat) (vs : List Nat) : minFrom acc vs ∈ acc :: vs ∧ ∀ v ∈ acc :: vs, minFrom acc vs ≤ v :=
  List.min?_eq_some_iff.1 (min?_cons_eq_minFrom acc vs)

theorem maxFrom_greatest (acc : Nat) (vs : List Nat) :
    maxFrom acc vs ∈ acc :: vs ∧ ∀ v ∈ acc :: vs, v ≤ maxFrom acc vs :=
  List.max?_eq_some_iff.1 (max?_cons_eq_maxFrom acc vs)

theorem truth_lt (b : Bool) : truth b < evalBound := by cases b <;> decide

theorem compareTwo_lt {test : Nat → Nat → Bool} {vs : List Nat} {a : Nat} (h : compareTwo test vs = .ok a) :
    a < evalBound := by
  unfold compareTwo at h
  split at h
  next => cases h; exact truth_lt _
  next => cases h

theorem compareTwo_eq_malformed_iff (test : Nat → Nat → Bool) (vs : List Nat) :
    compareTwo test vs = .err .evalMalformed ↔ vs.length ≠ 2 := by
  unfold compareTwo
  split
  next => simp
  next hother =>
    refine iff_of_true rfl fun hlength => ?_
    obtain ⟨a, b, rfl⟩ := List.length_eq_two.1 hlength
    exact hother a b rfl

/-! ## `combine` (42_evaluator.md R144, R152, R153) -/

/-- A kind answers EvalMalformed exactly on a number of values its arity does not allow. -/
theorem combine_eq_malformed_iff (k : Kind) (vs : List Nat) :
    combine k vs = .err .evalMalformed ↔ arityOk k vs.length = false := by
  cases vs with
  | nil => exact iff_of_true rfl (by cases k <;> rfl)
  | cons v vs =>
    have hcompare test : compareTwo test (v :: vs) = .err .evalMalformed ↔ decide ((v :: vs).length = 2) = false := by
      rw [compareTwo_eq_malformed_iff, decide_eq_false_iff_not]
    have hone : arityOk .sum (v :: vs).length ≠ false := by simp [arityOk, isComparison]
    cases k with
    | sum => exact iff_of_false (sumFrom_ne_malformed v vs) hone
    | product => exact iff_of_false (productFrom_ne_malformed v vs) hone
    | min => exact iff_of_false EvalResult.noConfusion hone
    | max => exact iff_of_false EvalResult.noConfusion hone
    | greaterThan => exact hcompare _
    | lessThan => exact hcompare _
    | equalTo => exact hcompare _

theorem combine_lt {k : Kind} {vs : List Nat} {a : Nat} (hvs : ∀ v ∈ vs, v < evalBound) (h : combine k vs = .ok a) :
    a < evalBound := by
  cases vs with
  | nil => cases h
  | cons v vs =>
    have hfirst := hvs v List.mem_cons_self
    cases k with
    | sum => exact sumFrom_lt hfirst h
    | product => exact productFrom_lt hfirst h
    | min => cases h; exact hvs _ (minFrom_least v vs).1
    | max => cases h; exact hvs _ (maxFrom_greatest v vs).1
    | greaterThan => exact compareTwo_lt h
    | lessThan => exact compareTwo_lt h
    | equalTo => exact compareTwo_lt h

/-! ## `evaluate`, by what it answers (42_evaluator.md R143, R144) -/

theorem Packets.evaluate_cons_eq_ok_iff {p : Packet} {ps : Packets} {vs : List Nat} :
    (Packets.cons p ps).evaluate = .ok vs ↔ ∃ v ws, p.evaluate = .ok v ∧ ps.evaluate = .ok ws ∧ v :: ws = vs := by
  rw [Packets.evaluate]
  cases p.evaluate <;> cases ps.evaluate <;> simp

theorem Packets.evaluate_cons_eq_err_iff {p : Packet} {ps : Packets} {e : EvalFault} :
    (Packets.cons p ps).evaluate = .err e ↔
      p.evaluate = .err e ∨ (∃ v, p.evaluate = .ok v) ∧ ps.evaluate = .err e := by
  rw [Packets.evaluate]
  cases p.evaluate <;> cases ps.evaluate <;> simp

theorem Packet.evaluate_operator_of_ok {ps : Packets} {vs : List Nat} (h : ps.evaluate = .ok vs) (ver : Version)
    (k : Kind) : (Packet.operator ver k ps).evaluate = combine k vs := by
  rw [Packet.evaluate, h]

theorem Packet.evaluate_operator_of_err {ps : Packets} {e : EvalFault} (h : ps.evaluate = .err e) (ver : Version)
    (k : Kind) : (Packet.operator ver k ps).evaluate = .err e := by
  rw [Packet.evaluate, h]

theorem Packets.evaluate_ofList_eq_ok_iff {children : List Packet} {vs : List Nat} :
    (Packets.ofList children).evaluate = .ok vs ↔ children.map Packet.evaluate = vs.map EvalResult.ok := by
  induction children generalizing vs with
  | nil => cases vs <;> simp [Packets.ofList, Packets.evaluate]
  | cons p ps ih =>
    rw [Packets.ofList, Packets.evaluate_cons_eq_ok_iff]
    cases vs with
    | nil => simp
    | cons v vs => simp [ih]

/-- An operator whose children answer the values `vs` answers what its kind makes of them (R144). -/
theorem Packet.evaluate_operator_ofList {children : List Packet} {vs : List Nat}
    (h : children.map Packet.evaluate = vs.map EvalResult.ok) (ver : Version) (k : Kind) :
    (Packet.operator ver k (Packets.ofList children)).evaluate = combine k vs :=
  Packet.evaluate_operator_of_ok (Packets.evaluate_ofList_eq_ok_iff.2 h) ver k

/-- Children that all evaluate have a list of values. -/
theorem exists_map_evaluate {children : List Packet} (h : ∀ q ∈ children, ∃ v, q.evaluate = .ok v) :
    ∃ vs : List Nat, children.map Packet.evaluate = vs.map EvalResult.ok := by
  induction children with
  | nil => exact ⟨[], rfl⟩
  | cons p ps ih =>
    obtain ⟨v, hv⟩ := h p List.mem_cons_self
    obtain ⟨vs, hvs⟩ := ih fun q hq => h q (List.mem_cons_of_mem p hq)
    exact ⟨v :: vs, by rw [List.map_cons, List.map_cons, hv, hvs]⟩

theorem Packets.evaluate_ofList_of_err {before after : List Packet} {p : Packet} {e : EvalFault}
    (hbefore : ∀ q ∈ before, ∃ v, q.evaluate = .ok v) (hp : p.evaluate = .err e) :
    (Packets.ofList (before ++ p :: after)).evaluate = .err e := by
  induction before with
  | nil => exact Packets.evaluate_cons_eq_err_iff.2 (.inl hp)
  | cons q before ih =>
    exact Packets.evaluate_cons_eq_err_iff.2
      (.inr ⟨hbefore q List.mem_cons_self, ih fun r hr => hbefore r (List.mem_cons_of_mem q hr)⟩)

theorem Packets.length_of_evaluate : ∀ {ps : Packets} {vs : List Nat}, ps.evaluate = .ok vs → vs.length = ps.length
  | .nil, _, h => by cases h; rfl
  | .cons _ _, _, h => by
    obtain ⟨v, ws, -, hws, rfl⟩ := Packets.evaluate_cons_eq_ok_iff.1 h
    rw [List.length_cons, Packets.length, Packets.length_of_evaluate hws]

mutual

/-- The bound of the datapath on a packet: a literal has 64 bits, and `combine` keeps the bound (R144, R153). -/
theorem Packet.evaluate_lt : ∀ {p : Packet} {a : Nat}, p.evaluate = .ok a → a < evalBound
  | .literal _ v, _, h => by cases h; exact v.isLt
  | .operator ver k ps, _, h => by
    cases hps : ps.evaluate with
    | err e => rw [Packet.evaluate_operator_of_err hps] at h; cases h
    | ok vs =>
      rw [Packet.evaluate_operator_of_ok hps] at h
      exact combine_lt (Packets.evaluate_lt hps) h

theorem Packets.evaluate_lt : ∀ {ps : Packets} {vs : List Nat}, ps.evaluate = .ok vs → ∀ v ∈ vs, v < evalBound
  | .nil, _, h => by cases h; exact fun _ => nofun
  | .cons _ _, _, h => by
    obtain ⟨v, ws, hv, hws, rfl⟩ := Packets.evaluate_cons_eq_ok_iff.1 h
    exact List.forall_mem_cons.2 ⟨Packet.evaluate_lt hv, Packets.evaluate_lt hws⟩

end

mutual

/-- A well-formed operator has as many children as its kind allows, and none of them answers EvalMalformed (R152). -/
theorem Packet.evaluate_ne_malformed : ∀ {p : Packet}, p.wellFormed = true → p.evaluate ≠ .err .evalMalformed
  | .literal _ _, _ => EvalResult.noConfusion
  | .operator ver k ps, h => by
    obtain ⟨harity, hchildren⟩ := Bool.and_eq_true_iff.1 h
    cases hps : ps.evaluate with
    | err e =>
      rw [Packet.evaluate_operator_of_err hps]
      rintro ⟨⟩
      exact Packets.evaluate_ne_malformed hchildren hps
    | ok vs =>
      rw [Packet.evaluate_operator_of_ok hps, Ne, combine_eq_malformed_iff, Packets.length_of_evaluate hps, harity]
      exact Bool.noConfusion

theorem Packets.evaluate_ne_malformed : ∀ {ps : Packets}, ps.wellFormed = true → ps.evaluate ≠ .err .evalMalformed
  | .nil, _ => EvalList.noConfusion
  | .cons p ps, h => by
    obtain ⟨hp, hps⟩ := Bool.and_eq_true_iff.1 h
    intro hmalformed
    obtain hfirst | ⟨-, hrest⟩ := Packets.evaluate_cons_eq_err_iff.1 hmalformed
    · exact Packet.evaluate_ne_malformed hp hfirst
    · exact Packets.evaluate_ne_malformed hps hrest

end

/-- The values of a list of children are below the bound of the datapath. -/
theorem values_lt {children : List Packet} {vs : List Nat} (h : children.map Packet.evaluate = vs.map EvalResult.ok) :
    ∀ v ∈ vs, v < evalBound :=
  Packets.evaluate_lt (Packets.evaluate_ofList_eq_ok_iff.2 h)

/-! ## The statements on `evaluate` -/

/-- Settles O53: the failing child decides the list of the children, by induction on the children before it. -/
theorem leftmostChildErrorDecides : Obligations.LeftmostChildErrorDecides := fun ver k _ _ _ _ hbefore hp =>
  Packet.evaluate_operator_of_err (Packets.evaluate_ofList_of_err hbefore hp) ver k

/-- Settles O54: the loop starts from the first value, which is below the bound. -/
theorem sumOfChildren : Obligations.SumOfChildren := by
  refine ⟨fun ver children vs hne h => ?_, fun ver => rfl⟩
  rw [Packet.evaluate_operator_ofList h]
  cases vs with
  | nil => exact absurd rfl hne
  | cons v vs => exact sumFrom_eq (values_lt h v List.mem_cons_self) vs

/-- Settles O55: the partial products of the loop are those of one factor or more. -/
theorem productOfChildren : Obligations.ProductOfChildren := by
  intro ver children vs hne h
  rw [Packet.evaluate_operator_ofList h]
  cases vs with
  | nil => exact absurd rfl hne
  | cons v vs =>
    have hpartial n : ((v :: vs).take (n + 1)).prod = v * (vs.take n).prod := List.prod_cons
    constructor
    · intro hfits
      rw [List.prod_cons]
      exact productFrom_of_lt fun n => hpartial n ▸ hfits (n + 1) (Nat.le_add_left 1 n)
    · rintro ⟨n, hn, hover⟩
      obtain ⟨n, rfl⟩ := Nat.exists_eq_add_of_le' hn
      exact productFrom_of_le (values_lt h v List.mem_cons_self) (hpartial n ▸ hover)

/-- Settles O56: the loops are the library's least and greatest element. -/
theorem minMaxOfChildren : Obligations.MinMaxOfChildren := by
  intro ver children vs hne h
  rw [Packet.evaluate_operator_ofList h, Packet.evaluate_operator_ofList h]
  cases vs with
  | nil => exact absurd rfl hne
  | cons v vs =>
    obtain ⟨hmin, hleast⟩ := minFrom_least v vs
    obtain ⟨hmax, hgreatest⟩ := maxFrom_greatest v vs
    exact ⟨⟨_, hmin, rfl, hleast⟩, ⟨_, hmax, rfl, hgreatest⟩⟩

/-- Settles O57: `combine` on two values is the comparison's truth value. -/
theorem comparisonsOfTwoChildren : Obligations.ComparisonsOfTwoChildren := by
  intro ver p q a b hp hq
  have hvalues : [p, q].map Packet.evaluate = [a, b].map EvalResult.ok := by
    rw [List.map_cons, List.map_cons, hp, hq]; rfl
  simp [Packet.evaluate_operator_ofList hvalues, combine, compareTwo, truth]

/-- Settles O58: the number of children is one the kind's arity does not allow. -/
theorem illFormedOperatorsMalformed : Obligations.IllFormedOperatorsMalformed := by
  intro ver k children hok hill
  obtain ⟨vs, h⟩ := exists_map_evaluate hok
  have hlength : children.length = vs.length := by simpa using congrArg List.length h
  rw [Packet.evaluate_operator_ofList h, combine_eq_malformed_iff, ← hlength]
  obtain rfl | ⟨rfl | rfl | rfl, htwo⟩ := hill
  · cases k <;> rfl
  all_goals exact decide_eq_false htwo

/-- Settles O59: both parts by induction over the tree. -/
theorem wellFormedTreesEvaluate : Obligations.WellFormedTreesEvaluate :=
  ⟨fun _ => Packet.evaluate_ne_malformed, fun _ _ => Packet.evaluate_lt⟩

/-! ## The result registers (42_evaluator.md R155) -/

/-- Settles O13: the outermost packet's completion is the end of the run, and its value fits VALUE. -/
theorem foldsFillResults : Obligations.FoldsFillResults := by
  intro p s hstk
  rw [complete_root hstk]
  refine ⟨rfl, fun v hv => ⟨?_, ?_, Packet.evaluate_lt hv⟩, fun k hk => ⟨?_, ?_⟩, rfl, rfl⟩
  · rw [finishRun_value, hv]; rfl
  · rw [State.everrCode, finishRun_everr, hv]; rfl
  · rw [finishRun_value, hk]; rfl
  · rw [State.everrCode, finishRun_everr, hk]; rfl

end Sys2Proof.Machine
end

section
/-! PROOFS of the family 60_exceptions.md: what fault entry writes, and that it is sticky (R171). -/

namespace Sys2Proof.Machine

open Sys2Proof

theorem raise_eq (k : DecodeFault) (a : Nat) (s : State) : raise k a s = .next (faultEntry k a s) := rfl

/-- ERR[2:0] after fault entry is the code of the kind (10_state.md R29). -/
@[simp] theorem faultEntry_derrCode (k : DecodeFault) (a : Nat) (s : State) : (faultEntry k a s).derrCode = k.code := by
  rw [State.derrCode, faultEntry_derr]

/-- FAULT is not BUSY, so with nothing pending no step leaves the fault (60_exceptions.md R171). -/
theorem step_faultEntry {k : DecodeFault} {a : Nat} {s : State} (h : s.inputs = []) :
    step (faultEntry k a s) = .next (faultEntry k a s) :=
  endedRunsStay _ (faultEntry_busy k a s) h

/-- Settles O14: the writes are those of `faultEntry`, the code is by kind, and the run it ends stays ended. -/
theorem faultEntryWrites : Obligations.FaultEntryWrites := by
  intro k a s
  refine ⟨raise_eq k a s, ?_, ?_, step_faultEntry⟩
  · rw [faultEntry_derrCode]
    cases k <;> rfl
  · rw [faultEntry_phase]
    rfl

end Sys2Proof.Machine
end

section
/-! PROOFS of the family 70_reset_and_hazards.md: the sequencer is never stuck (R193, R202), what reset leaves (R191),
what the host may do and read (R199), and what the end of a run says of the result registers (R200). -/

namespace Sys2Proof.Machine

open Sys2Proof Sys2Proof.Safety

/-! ## The sequencer always steps (70_reset_and_hazards.md R193, R202) -/

/-- Settles O42: outside a run the machine waits, and in a run the step ends as `StreamEnds` lists. -/
theorem sequencerAlwaysSteps : Obligations.SequencerAlwaysSteps := by
  intro s h hi
  cases hb : s.busy with
  | false => exact ⟨s, endedRunsStay s hb hi⟩
  | true =>
    obtain ⟨-, hrun, -⟩ := inv_iff.1 h
    obtain ⟨t, ht, -, -⟩ := Undisturbed.next ⟨hi, hrun⟩ hb
    exact ⟨t, ht⟩

/-! ## Reset (70_reset_and_hazards.md R190, R191) -/

/-- A reset does not depend on what else is pending, and keeps it (log 18). -/
theorem resetState_setInputs (r : List Input) (s : State) :
    resetState (setInputs r s) = setInputs r (resetState s) := rfl

theorem step_of_reset {s : State} {r : List Input} (hs : s.inputs = .reset :: r) :
    step s = .next (setInputs r (resetState s)) := by
  rw [step_of_input hs, takeInput, resetState_setInputs]

/-- Settles O29: SRESET and RESET both leave `resetState`, whose registers are those of the state after reset. -/
theorem resetLeavesResetState : Obligations.ResetLeavesResetState := by
  intro b s
  obtain ⟨hphase, hstatus, herr, hepos, hendpos, hbuflen, hcur, hstk, htree, hvsum, hvalue⟩ := resetValues
  exact ⟨resetState s, rfl, fun _ => step_of_reset, hphase, hstatus, herr, hepos, hendpos, hbuflen, hcur, hstk, htree,
    hvsum, hvalue, resetState_params s⟩

/-! ## Host actions that are refused (70_reset_and_hazards.md R199) -/

theorem hostLoad_of_busy {bits : List Bool} {s : State} (hb : s.busy = true) : hostLoad bits s = s :=
  if_neg (by simp [hb])

theorem hostLoad_of_lt {bits : List Bool} {s : State} {m : Nat} (hm : s.params.maxBits = some m)
    (hlt : m < bits.length) : hostLoad bits s = s := by
  have hfits : loadFits s.params bits.length = false :=
    Bool.eq_false_iff.2 fun h => Nat.not_le.2 hlt (loadFits_iff.1 h m hm)
  exact if_neg (by simp [hfits])

/-- In BUSY a control value that is not SRESET is a START, which is refused, or no command. -/
theorem takeInput_control_of_busy {v : Control} {s : State} (hb : s.busy = true)
    (hv : ∀ b, decodeControl v ≠ .ok (.sreset b)) : takeInput (.control v) s = .next s := by
  cases hd : decodeControl v with
  | error => rw [takeInput, hd]
  | ok i =>
    rcases decodeControl_cases hd with ⟨b, rfl⟩ | rfl
    · exact absurd hd (hv b)
    · rw [takeInput, hd]; exact execStart_of_busy hb

/-- In BUSY nothing from outside but a reset, and a read, has an effect (60_exceptions.md R174). -/
theorem takeInput_of_busy {i : Input} {s : State} (hb : s.busy = true) (hpause : i ≠ .pause) (hreset : i ≠ .reset)
    (hsreset : ∀ v b, i = .control v → decodeControl v ≠ .ok (.sreset b)) (hread : ∀ x, i ≠ .read x) :
    takeInput i s = .next s := by
  cases i with
  | pause => exact absurd rfl hpause
  | reset => exact absurd rfl hreset
  | load bits => exact congrArg Host.Outcome.next (hostLoad_of_busy hb)
  | control v => exact takeInput_control_of_busy hb fun b => hsreset v b rfl
  | writeReadOnly => rfl
  | read x => exact absurd rfl (hread x)
  | command w => exact takeCommand_of_busy hb

/-- No register shows what is pending. -/
theorem hostRead_setInputs (r : List Input) (s : State) (x : HostReg) : hostRead (setInputs r s) x = hostRead s x := by
  cases x <;> rfl

theorem step_of_read {s : State} {x : HostReg} {r : List Input} (hs : s.inputs = .read x :: r) :
    step s = .next { s with inputs := r, readData := hostRead s x } := by
  rw [step_of_input hs, takeInput, hostRead_setInputs]
  rfl

/-- Settles O33: a refused LOAD leaves the state, the other refused actions are no command, and in BUSY every input but
a reset is refused or is a read. -/
theorem refusedHostActions : Obligations.RefusedHostActions := by
  refine fun s r => ⟨fun bits hi hrefused => ?_, fun _ => step_of_input, step_of_input, fun i hi hb hp hr hc => ?_⟩
  · have hload : hostLoad bits (setInputs r s) = setInputs r s := by
      obtain hb | ⟨m, hm, hlt⟩ := hrefused
      · exact hostLoad_of_busy hb
      · exact hostLoad_of_lt hm hlt
    rw [step_of_input hi, takeInput, hload]
    rfl
  · by_cases hread : ∃ x, i = .read x
    · obtain ⟨x, rfl⟩ := hread
      exact .inr ⟨x, rfl, step_of_read hi⟩
    · exact .inl ((step_of_input hi).trans (takeInput_of_busy (s := setInputs r s) hb hp hr hc (not_exists.1 hread)))

/-! ## Register reads (10_state.md R27 to R33) -/

/-- ERR as a number: the two codes in their nibbles, bits 7 and 3 clear (10_state.md R29). -/
theorem State.toNat_err (s : State) : s.err.toNat = 16 * s.everrCode.toNat + s.derrCode.toNat := by
  unfold State.err
  generalize s.everrCode = e
  generalize s.derrCode = d
  revert e d
  decide

theorem hostRead_vsum_of_not_done {s : State} (hp : s.phase ≠ .done) : hostRead s .vsum = .noValue := by
  simp only [hostRead]
  split
  · next hdone _ => exact absurd hdone hp
  · rfl

theorem hostRead_value_of_no_result {s : State} (h : s.phase ≠ .done ∨ s.everr ≠ none) :
    hostRead s .value = .noValue := by
  simp only [hostRead]
  split
  · next hdone hok _ => exact absurd h (by simp [hdone, hok])
  · rfl

theorem hostRead_vsum_of_done {s : State} {v : Nat} (hp : s.phase = .done) (hv : s.vsum = some v) :
    hostRead s .vsum = .word v := by
  simp only [hostRead, hp, hv]

theorem hostRead_value_of_done {s : State} {v : Value} (hp : s.phase = .done) (he : s.everr = none)
    (hv : s.value = some v) : hostRead s .value = .word v.toNat := by
  simp only [hostRead, hp, he, hv]

/-- Settles O34: the read fills `readData` alone, and each register reads as the table of 10_state.md R33 says. -/
theorem hostReadsRegisters : Obligations.HostReadsRegisters := fun s _ _ hi =>
  ⟨step_of_read hi, rfl, rfl, congrArg ReadData.word s.toNat_err, rfl, rfl, rfl, rfl,
    fun hp => ⟨hostRead_vsum_of_not_done hp, hostRead_value_of_no_result (.inl hp)⟩,
    fun he => hostRead_value_of_no_result (.inr he), fun _ => hostRead_vsum_of_done, fun _ => hostRead_value_of_done⟩

/-! ## Where a run ends (70_reset_and_hazards.md R200, 10_state.md R30) -/

/-- A run that has just ended shows its cursor: DONE has POS in ENDPOS, FAULT has A in EPOS. -/
def EndsAtCursor (t : State) : Prop :=
  (t.phase = .done → t.endpos = t.cur.pos) ∧ (t.phase = .fault → t.epos = t.cur.addr)

theorem endsAtCursor_of_busy {t : State} (hb : t.busy = true) : EndsAtCursor t := by
  obtain ⟨hdone, hfault⟩ := phase_ne_of_busy hb
  exact ⟨fun hp => absurd hp hdone, fun hp => absurd hp hfault⟩

/-- A step raises with the address its cursor has come to. -/
theorem endsAtCursor_faultEntry {k : DecodeFault} {a : Nat} {s : State} (ha : s.cur.addr = a) :
    EndsAtCursor (faultEntry k a s) := ⟨fun hp => by simp at hp, fun _ => ha.symm⟩

theorem endsAtCursor_complete (p : Packet) (s : State) : EndsAtCursor (complete p s) := by
  rcases complete_cases p s with ⟨-, hc⟩ | ⟨f, rest, -, hc⟩ <;> rw [hc]
  · exact ⟨fun _ => rfl, fun hp => by simp at hp⟩
  · exact endsAtCursor_of_busy rfl

theorem HeaderEnds.endsAtCursor {v : Version} {tid : TypeId} {s t : State} (he : HeaderEnds v tid s t) :
    EndsAtCursor t := by
  cases he with
  | noVersion => exact endsAtCursor_faultEntry rfl
  | noTypeId => exact endsAtCursor_faultEntry (addr_afterVersion v s)
  | literal => exact endsAtCursor_of_busy rfl
  | operator => exact endsAtCursor_of_busy rfl

theorem GroupEnds.endsAtCursor {g : BitVec 5} {s t : State} (he : GroupEnds g s t) (hb : s.busy = true) :
    EndsAtCursor t := by
  cases he with
  | noGroup => exact endsAtCursor_faultEntry rfl
  | overflow => exact endsAtCursor_faultEntry (addr_afterGroup g s)
  | more => exact endsAtCursor_of_busy hb
  | last => exact endsAtCursor_complete ..

theorem WindowEnds.endsAtCursor {k : Kind} {ver : Version} {len : TotalLength} {s t : State}
    (he : WindowEnds k ver len s t) : EndsAtCursor t := by
  cases he with
  | noLengthType => exact endsAtCursor_faultEntry rfl
  | noLength => exact endsAtCursor_faultEntry (addr_afterLengthType 0 s)
  | tooLong => exact endsAtCursor_faultEntry (addr_afterLength len s)
  | tooDeep => exact endsAtCursor_faultEntry (addr_afterLength len s)
  | pushed => exact endsAtCursor_of_busy rfl

theorem CountEnds.endsAtCursor {k : Kind} {ver : Version} {cnt : PacketCount} {s t : State}
    (he : CountEnds k ver cnt s t) : EndsAtCursor t := by
  cases he with
  | noLengthType => exact endsAtCursor_faultEntry rfl
  | noCount => exact endsAtCursor_faultEntry (addr_afterLengthType 1 s)
  | tooDeep => exact endsAtCursor_faultEntry (addr_afterCount cnt s)
  | pushed => exact endsAtCursor_of_busy rfl

theorem NextEnds.endsAtCursor {f : Frame} {rest : List Frame} {s t : State} (he : NextEnds f rest s t) :
    EndsAtCursor t := by
  cases he with
  | child => exact endsAtCursor_of_busy rfl
  | mismatch => exact endsAtCursor_faultEntry rfl
  | badParent => exact endsAtCursor_faultEntry rfl
  | closed => exact endsAtCursor_complete ..
  | counted => exact endsAtCursor_complete ..
  | another => exact endsAtCursor_of_busy rfl

theorem StreamEnds.endsAtCursor {s t : State} (he : StreamEnds s t) : EndsAtCursor t := by
  cases he with
  | hdr _ _ _ he => exact he.endsAtCursor
  | lit _ hp he => exact he.endsAtCursor (busy_iff.2 (.inr (.inr (.inl hp))))
  | window _ _ _ _ he => exact he.endsAtCursor
  | count _ _ _ _ he => exact he.endsAtCursor
  | next _ _ _ _ he => exact he.endsAtCursor

/-! ## The result registers at the end of a run (10_state.md R29, R31) -/

theorem DecodeFault.code_mem (k : DecodeFault) : k.code ∈ [1, 2, 4, 5] := by cases k <;> decide

theorem derrCode_of_done {t : State} (h : ResultsOk t) (hp : t.phase = .done) : t.derrCode = 0 := by
  obtain ⟨-, -, hfault, -⟩ := h
  have hderr : t.derr = none := not_not.1 (mt hfault.2 (by simp [hp]))
  rw [State.derrCode, hderr]

theorem derrCode_of_fault {t : State} (h : ResultsOk t) (hp : t.phase = .fault) :
    t.derrCode ∈ [1, 2, 4, 5] := by
  obtain ⟨-, -, hfault, -⟩ := h
  obtain ⟨k, hderr⟩ := Option.ne_none_iff_exists'.1 (hfault.1 hp)
  rw [State.derrCode, hderr]
  exact k.code_mem

/-- The folds leave either a value in VALUE or an error in EVERR (42_evaluator.md R155). -/
theorem value_or_everr {p : Packet} {t : State} (hvalue : t.value = p.evaluate.toValue)
    (heverr : t.everr = p.evaluate.toFault) :
    (∃ v, p.evaluate = .ok v ∧ v < 2 ^ 64 ∧ t.everrCode = 0 ∧ t.value = some (BitVec.ofNat 64 v)) ∨
      (t.value = none ∧ (t.everrCode = 6 ∨ t.everrCode = 7)) := by
  rw [State.everrCode, heverr, hvalue]
  cases hp : p.evaluate with
  | ok v => exact .inl ⟨v, rfl, Packet.evaluate_lt hp, rfl, rfl⟩
  | err k =>
    cases k with
    | evalMalformed => exact .inr ⟨rfl, .inl rfl⟩
    | evalOverflow => exact .inr ⟨rfl, .inr rfl⟩

/-- Settles O45: the invariant says what stands in the result registers, and the two positions are the cursor's, which
lies in the buffer. -/
theorem resultsOfEndedRun : Obligations.ResultsOfEndedRun := by
  intro s t h hb hi hs
  have hresults := (stepKeepsInvariant s t h hs).results
  have ⟨hdone, hempty, _, _⟩ := hresults
  obtain ⟨-, haddr⟩ := addressNeverDecreases s t h hb hi hs
  obtain ⟨-, hrun, -⟩ := inv_iff.1 h
  obtain ⟨hendpos, hepos⟩ := ((hrun hb).streamEnds hb ((step_of_no_input hi).symm.trans hs)).endsAtCursor
  refine ⟨fun hp => ?_, fun hp => ?_⟩
  · obtain ⟨p, htree, hvsum, hvalue, heverr⟩ := hdone hp
    have hpos : t.endpos ≤ t.buflen := by
      rw [hendpos hp]
      exact (Nat.le_add_left ..).trans haddr
    exact ⟨derrCode_of_done hresults hp, hpos, hendpos hp, p, htree, hvsum, value_or_everr hvalue heverr⟩
  · obtain ⟨htree, -, -, heverr, -⟩ := hempty (by simp [hp])
    exact ⟨derrCode_of_fault hresults hp, (hepos hp).trans_le haddr, htree, by rw [State.everrCode, heverr]⟩

end Sys2Proof.Machine
end
